-- ==== Sys2Proof/Word.lean ====
section
/-! DEFINITION. The data types of the block and their plainest arithmetic (spec/00_scope.md R10, R11).

Every quantity is unsigned (R10, R141), so the types are core bit vectors and nothing is ever sign-extended. -/

namespace Sys2Proof

/-- An unsigned 8-bit value, 0..255 (R11). -/
abbrev Byte := BitVec 8

/-- Exactly four bytes held in 32 bits, byte 0 in bits[31:24] (R11, R52). -/
abbrev Word := BitVec 32

/-- A 16-bit host command word, format `CMD16` (R80). -/
abbrev CommandWord := BitVec 16

/-- The width of the word index counter `IDX`, format `IDX6` (R25, R82). -/
abbrev Index := BitVec 6

end Sys2Proof
end

