-- ==== Sys2Proof/Syntax.lean ====
section
/-! DEFINITION. The operation set `KS-1` (spec/00_scope.md R2): the five host commands of format `CMD16`
(spec/30_encoding.md R83) and the three sequencer step kinds of format `IDX6` (R82, R90), one constructor
per row of spec/opcode_table.json. -/

namespace Sys2Proof

/-- One operation of the block, with the operand fields its encoding carries. -/
inductive Instr where
  /-- `KPUSH b`: push one key byte (R181). -/
  | kpush (b : Byte)
  /-- `START`: check the key length and begin the expansion (R183). -/
  | start
  /-- `RDW i`: read schedule word `i` (R184). -/
  | rdw (i : BitVec 8)
  /-- `RDRK r`: read round key `r` (R185). -/
  | rdrk (r : BitVec 8)
  /-- `RDST`: read the status register (R186). -/
  | rdst
  /-- `KS_COPY`: copy word `k` of the key into the schedule (R152), pattern `0000kk`. -/
  | ksCopy (k : BitVec 2)
  /-- `KS_G`: make the first word of round key `j` (R153), pattern `jjjj00`. -/
  | ksG (j : BitVec 4)
  /-- `KS_X`: make word `k` of round key `j` (R154), pattern `jjjjkk`. -/
  | ksX (j : BitVec 4) (k : BitVec 2)
  deriving DecidableEq, Repr

/-- The bits that select an operation. A host command is selected by a 16-bit word the host presents (R80),
a sequencer step by the value of the counter `IDX` (R82): "A sequencer step has no instruction word". -/
inductive Encoded where
  | command (w : CommandWord)
  | index (i : Index)
  deriving DecidableEq, Repr

end Sys2Proof
end

