-- ==== Sys2Proof/WellFormed.lean ====
section
/-! DEFINITION. Which terms of `Instr` stand for a legal operation: the operand ranges of R85 (d) for the two
read commands, and the constraints of the decode R90 for the step kinds. -/

namespace Sys2Proof

/-- A round key that a derived word can belong to: "`1 <= j <= 10`" (R90, R122). -/
def derivedRoundKey (j : BitVec 4) : Bool := decide (1 ≤ j.toNat) && decide (j.toNat ≤ 10)

/-- The operand constraints of spec/opcode_table.json's rows (R85 (d), R90). -/
def Instr.wellFormed : Instr → Bool
  | .kpush _ => true
  | .start => true
  | .rdw i => decide (i.toNat ≤ 43)
  | .rdrk r => decide (r.toNat ≤ 10)
  | .rdst => true
  | .ksCopy _ => true
  | .ksG j => derivedRoundKey j
  | .ksX j k => derivedRoundKey j && decide (k ≠ 0#2)

end Sys2Proof
end

