-- ==== Sys2Proof/Decode.lean ====
section
/-! DEFINITION. The two decoders and the encoder, from spec/30_encoding.md.

Host command words follow R80, R83 and R85 (a) to (c). R85 (d), the operand range of `RDW` and `RDRK`, is
checked by those commands' own meanings, as the pseudocode of R184 and R185 writes it: the words assemble and
"are refused at run time" (R95; DESIGN CHOICE, safe, notes/assumptions/16.md). The sequencer's decode is R90's. -/

namespace Sys2Proof

/-- Why a bit pattern selects no operation. The first two are refusals of the host port (R86); the last two
are index values at which no step exists (R90). -/
inductive DecodeReject where
  /-- `op` is `0x0` or `0x6`..`0xf` (R85 (a)). -/
  | reservedOpcode
  /-- `rsv` is not zero, or `arg` of `START` or `RDST` is not zero (R85 (b), (c)). -/
  | nonZeroReserved
  /-- `IDX` is 44: "no step: the expansion is complete" (R90). -/
  | expansionComplete
  /-- `IDX` is 45 or more: "never held" (R90). -/
  | badIndex
  deriving DecidableEq, Repr

/-- `op`, bits[15:12] of a command word (R80). -/
def opField (w : CommandWord) : BitVec 4 := w.extractLsb' 12 4

/-- `rsv`, bits[11:8] of a command word (R80). -/
def rsvField (w : CommandWord) : BitVec 4 := w.extractLsb' 8 4

/-- `arg`, bits[7:0] of a command word (R80), "used as it stands" (R84). -/
def argField (w : CommandWord) : BitVec 8 := w.extractLsb' 0 8

/-- A command without operand: `arg` must be zero (R85 (c)). -/
def withoutArgument (arg : BitVec 8) (i : Instr) : Except DecodeReject Instr :=
  if arg = 0#8 then .ok i else .error .nonZeroReserved

/-- The opcode map R83 over the fields of a word whose `rsv` is zero. -/
def decodeOpcode (op : BitVec 4) (arg : BitVec 8) : Except DecodeReject Instr :=
  if op = 0x1#4 then .ok (.kpush arg)
  else if op = 0x2#4 then withoutArgument arg .start
  else if op = 0x3#4 then .ok (.rdw arg)
  else if op = 0x4#4 then .ok (.rdrk arg)
  else if op = 0x5#4 then withoutArgument arg .rdst
  else .error .reservedOpcode

/-- `op` is one of the five legal operation codes (R83). -/
def legalOpcode (op : BitVec 4) : Bool := decide (1 ≤ op.toNat) && decide (op.toNat ≤ 5)

/-- Decode a host command word, checking in the order of R86: the opcode, then the reserved fields. -/
def decodeCommand (w : CommandWord) : Except DecodeReject Instr :=
  if legalOpcode (opField w) = false then .error .reservedOpcode
  else if rsvField w ≠ 0#4 then .error .nonZeroReserved
  else decodeOpcode (opField w) (argField w)

/-- `j`, `IDX[5:2]` (R82). -/
def roundField (i : Index) : BitVec 4 := i.extractLsb' 2 4

/-- `k`, `IDX[1:0]` (R82). -/
def positionField (i : Index) : BitVec 2 := i.extractLsb' 0 2

/-- The step kind decode R90: "if j == 0 then KS_COPY else if j <= 10 then (if k == 0 then KS_G else KS_X)
else none", the last case split into the completed expansion and the values never held. -/
def decodeIndex (i : Index) : Except DecodeReject Instr :=
  if roundField i = 0#4 then .ok (.ksCopy (positionField i))
  else if (roundField i).toNat ≤ 10 then
    if positionField i = 0#2 then .ok (.ksG (roundField i))
    else .ok (.ksX (roundField i) (positionField i))
  else if i = 44#6 then .error .expansionComplete
  else .error .badIndex

/-- Decode whatever selects the next operation. -/
def decode : Encoded → Except DecodeReject Instr
  | .command w => decodeCommand w
  | .index i => decodeIndex i

/-- A command word from its fields, `rsv` zero (R80). -/
def commandWord (op : BitVec 4) (arg : BitVec 8) : CommandWord := op ++ 0#4 ++ arg

/-- The bits that select an operation: the words of R83 and the patterns of R90. -/
def encode : Instr → Encoded
  | .kpush b => .command (commandWord 0x1#4 b)
  | .start => .command (commandWord 0x2#4 0#8)
  | .rdw i => .command (commandWord 0x3#4 i)
  | .rdrk r => .command (commandWord 0x4#4 r)
  | .rdst => .command (commandWord 0x5#4 0#8)
  | .ksCopy k => .index (0#4 ++ k)
  | .ksG j => .index (j ++ 0#2)
  | .ksX j k => .index (j ++ k)

/-- A table row's bits as the hardware presents them: a row of at most 8 bits is an `IDX6` pattern held by the
counter, a 16-bit row a command word presented whole (R54). Bits outside the format must be zero. -/
def tableEncoding (nbits w : Nat) : Option Encoded :=
  if nbits ≤ 8 then if w < 64 then some (.index (BitVec.ofNat 6 w)) else none
  else if nbits ≤ 16 then if w < 65536 then some (.command (BitVec.ofNat 16 w)) else none
  else none

/-- What the decoder reads from the bits of a row of spec/opcode_table.json. -/
def decodeTableWord (nbits w : Nat) : Option Instr :=
  match tableEncoding nbits w with
  | none => none
  | some e => (decode e).toOption

end Sys2Proof
end

