-- ==== Sys2Proof/Config.lean ====
section
/-! DEFINITION. What is fixed for the block (spec/00_scope.md R7, R8) and what the spec leaves open
(spec/92_eei_decisions.md, the list of open parameters).

The two open numbers have no body, so no proof can see a value of theirs, and no definition of the
machine reads them: R253 says that no rule depends on `STEP_LATENCY`, and R67 that instances share nothing
mutable (DEDUCED, safe, notes/assumptions/11.md and 12.md). `PORT_BINDING` and `RESET_BINDING` are signal-level
(R6, D3, D13) and have no type here (DEDUCED, safe, notes/assumptions/18.md). -/

namespace Sys2Proof.Config

/-- `Nk`: key length in words (R7). -/
def nk : Nat := 4

/-- `Nr`: number of rounds (R7). -/
def nr : Nat := 10

/-- Words in a round key; the literal 4 of `4 * (Nr + 1)` (R7). -/
def wordsPerRoundKey : Nat := 4

/-- `NRK`: round keys, indexed 0..10 (R7). -/
abbrev nrk : Nat := 11

/-- `NWORDS`: words in the schedule (R7). -/
abbrev nwords : Nat := 44

/-- `KEYBYTES`: bytes in a cipher key (R7). -/
abbrev keyBytes : Nat := 16

/-- `SCHEDBYTES`: bytes in the schedule (R7). -/
abbrev schedBytes : Nat := 176

/-- `SBOXSIZE`: entries of the S-box ROM (R7). -/
abbrev sboxSize : Nat := 256

/-- `NRCON`: entries of the Rcon ROM, indices 1..10 (R7). -/
abbrev nrcon : Nat := 10

/-- The value at which the key byte counter saturates, "17 or more" (R8, R21). -/
abbrev kcntMax : Nat := 17

/-- `STEP_LATENCY`, OPEN (R8, R253): clock cycles of the sequencer step at a given index.
It is a function of the index only, since R252 makes it independent of data. No rule depends on it. -/
opaque stepLatency : Nat → Nat

/-- How many instances a chip holds beyond the first; OPEN (R8, D21). -/
opaque furtherInstances : Nat

/-- `NINST`, OPEN and at least 1 (R8, R67, R227). No rule depends on it. -/
def ninst : Nat := furtherInstances + 1

end Sys2Proof.Config
end

