-- ==== Sys2Proof/Machine/State.lean ====
section
/-! DEFINITION. The architectural state (spec/10_state.md), the responses, the reasons a step can stop, and the
state after reset (R40).

The S-box and Rcon tables are constants of the model, not state (R35, R242); they stand in Machine/Tables.lean.
The block has no external memory (R36, R54): its storage is the two register files `K` and `W` (DEDUCED, safe,
notes/assumptions/13.md). -/

namespace Sys2Proof.Machine

/-- `ST`, the state of the block (R28), a field of `STATUS`. -/
inductive RunState where
  /-- 0: "no schedule is held and no error is recorded". -/
  | idle
  /-- 1: an expansion is running; every host command is held (R188). -/
  | busy
  /-- 2: the schedule is fully populated; `RDW` and `RDRK` are accepted. -/
  | done
  /-- 3: the last `START` failed with `InvalidKeyLength`. -/
  | error
  deriving DecidableEq, Repr

/-- `ERR`, the error kind of the last `START` (R29); "Single error kind". The codes 2 and 3 are never held
(R27) and have no constructor (DEDUCED, safe, notes/assumptions/14.md). -/
inductive ErrorKind where
  /-- 0: none. -/
  | none
  /-- 1: `InvalidKeyLength` (R210). -/
  | invalidKeyLength
  deriving DecidableEq, Repr

/-- Why a host command word is refused (R86), in the order the checks are made. -/
inductive RefuseReason where
  | reservedOpcode
  | nonZeroReserved
  | indexOutOfRange
  | notDone
  deriving DecidableEq, Repr

/-- The answer to one host command word (R81), as the sum type that rule allows. -/
inductive Response where
  | ok (data : BitVec 128)
  | error (kind : ErrorKind)
  | refused (reason : RefuseReason)
  deriving DecidableEq, Repr

/-- Everything the spec gives the machine, and the host's side of its one command port as plain data. -/
structure State where
  /-- `K[0..15]`, the key buffer, 8 bits each (R20). -/
  k : Vector Byte 16
  /-- `KCNT`, the key byte counter, 5 bits, 0..17 (R21). -/
  kcnt : BitVec 5
  /-- `W[0..43]`, the schedule store, 32 bits each (R22). -/
  w : Vector Word 44
  /-- `WV[0..43]`, the written flags (R22, R23). -/
  wv : Vector Bool 44
  /-- `IDX`, the word index counter, 6 bits, 0..44 (R25). -/
  idx : Index
  /-- `STATUS.ST` (R27, R28). -/
  st : RunState
  /-- `STATUS.ERR` (R27, R29). -/
  err : ErrorKind
  /-- `TEMP`, the hidden register of the pipeline (R31, R125). -/
  temp : Word
  /-- `P`, the second fetched word of stage `S0` (R125). -/
  p : Word
  /-- The host's script: the head is the word presented at the command port, the rest are the words the host
  presents after it, in order (R180, R191; DESIGN CHOICE, safe, notes/assumptions/4.md). -/
  port : List CommandWord
  /-- The external reset at each coming step, the head at the next one; not asserted once the list has run out
  (R13, R240; DESIGN CHOICE, unsafe, notes/assumptions/3.md). -/
  resetIn : List Bool
  /-- The responses given so far, oldest first: "The observable result of a run" (R191). -/
  responses : List Response
  deriving DecidableEq, Repr

/-- A state that the rules make unreachable was met: "the model treats it as a fault, never as a value" (R12).
Every one is safe: the model stops. None is an exception of the hardware (R211). -/
inductive Fault where
  /-- A read of schedule word `i` while `WV[i] = 0` (R22). Raised by the sequencer's fetch, `RDW` and `RDRK`.
  Safe; unreachable by R45. -/
  | readUnwritten (i : Nat)
  /-- An index outside the schedule, or an `IDX` of 45 or more while `BUSY` (R26, R90). Raised by the
  sequencer's decode and by accesses to `W`. Safe; unreachable by R45. -/
  | badIndex (i : Nat)
  /-- `BUSY` with `IDX = 44`, where no step kind exists (R90, R155). Raised by the sequencer's decode. Safe;
  unreachable by R45. -/
  | noStepEnabled
  /-- An Rcon entry that does not exist was addressed: 0 or 11..15 (R34, spec/93_implementation_defined.md U4).
  Raised by stage `S3`. Safe; unreachable by R90. -/
  | noRcon (j : Nat)
  deriving DecidableEq, Repr

/-- Why the model gives an instruction no meaning. A command word the block refuses (R216) is not one of these:
it is answered (R187) and the run goes on. -/
inductive Refusal where
  /-- Raised by a dispatch arm that has no meaning yet, with the row's mnemonic. Safe. No arm raises it. -/
  | notModelled (mnemonic : String)
  deriving DecidableEq, Repr

/-- The state after reset (R40). The contents of `K`, `W`, `TEMP` and `P` are unspecified and unobservable
there; zero is this model's choice (DESIGN CHOICE, unsafe, notes/assumptions/1.md). Nothing is presented yet,
reset is released, and no response has been given. -/
def State.reset : State where
  k := Vector.replicate 16 0#8
  kcnt := 0#5
  w := Vector.replicate 44 0#32
  wv := Vector.replicate 44 false
  idx := 0#6
  st := .idle
  err := .none
  temp := 0#32
  p := 0#32
  port := []
  resetIn := []
  responses := []

end Sys2Proof.Machine
end

