-- ==== Sys2Proof/Machine/Operands.lean ====
section
/-! DEFINITION. Byte order and operand assembly: how bytes make a word (spec/20_memory.md R50 to R53), how a
sequencer step's indices come from the fields of `IDX` (spec/30_encoding.md R82, R84), and the bit packing of
read data (R53). -/

namespace Sys2Proof.Machine

/-- `(b0, b1, b2, b3)` held as `{b0, b1, b2, b3}`: byte 0 in bits[31:24] (R11, R52). -/
def packWord (b0 b1 b2 b3 : Byte) : Word := b0 ++ b1 ++ b2 ++ b3

/-- `w.byte(m)`, bits[31 - 8m : 24 - 8m] (R11, R51). -/
def wordByte (w : Word) (m : Fin 4) : Byte := w.extractLsb' (24 - 8 * m.val) 8

/-- `m` is one of the bytes of key word `j`: `4j + m <= 15`. -/
theorem keyByte_lt (j : BitVec 2) (m : Nat) (hm : m < 4) : 4 * j.toNat + m < 16 := by
  have := j.isLt
  omega

/-- Word `j` of the key: key bytes `4j`..`4j+3`, byte `4j` being byte 0 of the word (R50). -/
def keyWord (key : Vector Byte 16) (j : BitVec 2) : Word :=
  packWord
    (key[4 * j.toNat + 0]'(keyByte_lt j 0 (by decide)))
    (key[4 * j.toNat + 1]'(keyByte_lt j 1 (by decide)))
    (key[4 * j.toNat + 2]'(keyByte_lt j 2 (by decide)))
    (key[4 * j.toNat + 3]'(keyByte_lt j 3 (by decide)))

/-- The schedule as 176 bytes: `SB[n] = W[n / 4].byte(n mod 4)` (R51). -/
def scheduleByte (w : Vector Word 44) (n : Fin 176) : Byte :=
  wordByte (w[n.val / 4]'(by omega)) ⟨n.val % 4, by omega⟩

/-- The schedule index `i = 4j + k` that the fields of `IDX` spell (R82). -/
def stepIndex (j : BitVec 4) (k : BitVec 2) : Index := j ++ k

/-- `IDX - 1`, the 6-bit index of the previous word (R84, R142 (b)). On an ill-formed term it wraps (DESIGN CHOICE,
safe, notes/assumptions/15.md). -/
def prevIndex (i : Index) : Index := i - 1#6

/-- `IDX - 4`, the 6-bit index of the word one round key back (R84, R142 (b)). -/
def backIndex (i : Index) : Index := i - 4#6

/-- `IDX + 1` on 6 bits (R142 (a)). -/
def nextIndex (i : Index) : Index := i + 1#6

/-- The data of `RDW`: the word in bits[31:0], the rest zero (R81, R53). -/
def wordData (v : Word) : BitVec 128 := 0#96 ++ v

/-- The data of `RDRK`: `{W[4r], W[4r+1], W[4r+2], W[4r+3]}`, byte 0 of the round key in bits[127:120] (R53). -/
def roundKeyData (a b c d : Word) : BitVec 128 := a ++ b ++ c ++ d

end Sys2Proof.Machine
end

