-- ==== Sys2Proof/Machine/Datapath.lean ====
section
/-! DEFINITION. The datapath functions: `RotWord`, `SubWord`, `RconXor` and their composition `G`
(spec/41_rotword_subword.md), and the combiner `XorWord` (spec/42_xor.md). All are pure and write no flag. -/

namespace Sys2Proof.Machine

/-- `RotWord((b0, b1, b2, b3)) = (b1, b2, b3, b0)` (R120). -/
def rotWord (w : Word) : Word := packWord (wordByte w 1) (wordByte w 2) (wordByte w 3) (wordByte w 0)

/-- `SubWord`: each byte independently through the S-box, byte positions kept (R121, R114). -/
def subWord (w : Word) : Word :=
  packWord (sbox (wordByte w 0)) (sbox (wordByte w 1)) (sbox (wordByte w 2)) (sbox (wordByte w 3))

/-- `RconXor(w, j) = w XOR {RCON[j], 0x00, 0x00, 0x00}` (R122); it has no value where `RCON[j]` does not
exist (R34, U4). -/
def rconXor (w : Word) (j : BitVec 4) : Option Word :=
  (rcon j).map fun c => w ^^^ packWord c 0#8 0#8 0#8

/-- `G(t, j) = RconXor(SubWord(RotWord(t)), j)` (R124). -/
def gWord (t : Word) (j : BitVec 4) : Option Word := rconXor (subWord (rotWord t)) j

/-- `T(i, t)`: `G(t, i / 4)` when `i mod 4 = 0`, and `t` otherwise (R124). -/
def transformAt (i : Nat) (t : Word) : Option Word :=
  if i % 4 = 0 then gWord t (BitVec.ofNat 4 (i / 4)) else some t

/-- `XorWord(p, t)`: the bytewise exclusive-or, which in the packing is the 32-bit one (R140). -/
def xorWord (p t : Word) : Word := p ^^^ t

end Sys2Proof.Machine
end

