-- ==== Sys2Proof/Machine/Flags.lean ====
section
/-! DEFINITION. The status register and the key byte counter (spec/10_state.md R21, R27 to R29), and the codes
of responses (spec/30_encoding.md R81, R86). There are no condition codes (R30). -/

namespace Sys2Proof.Machine

/-- The numeric value of `ST` (R27). -/
def RunState.code : RunState → BitVec 2
  | .idle => 0#2
  | .busy => 1#2
  | .done => 2#2
  | .error => 3#2

/-- The numeric value of `ERR` (R27); `ERR_InvalidKeyLength` is 1 (R8). -/
def ErrorKind.code : ErrorKind → BitVec 2
  | .none => 0#2
  | .invalidKeyLength => 1#2

/-- `STATUS = {0b0000000, KCNT, ERR, ST}` (R27, R186). -/
def statusWord (s : State) : BitVec 16 := 0#7 ++ s.kcnt ++ s.err.code ++ s.st.code

/-- The data of `RDST`: `STATUS` in bits[15:0], the rest zero (R81, R186). -/
def statusData (s : State) : BitVec 128 := 0#112 ++ statusWord s

/-- `KCNT <- min(KCNT + 1, 17)`, the saturating count of pushed bytes (R181, R142 (d)). -/
def nextKcnt (c : BitVec 5) : BitVec 5 := BitVec.ofNat 5 (min (c.toNat + 1) Config.kcntMax)

/-- The `code` of a `REFUSED` response (R86). -/
def RefuseReason.code : RefuseReason → BitVec 4
  | .reservedOpcode => 1#4
  | .nonZeroReserved => 2#4
  | .indexOutOfRange => 3#4
  | .notDone => 4#4

/-- The `kind` field of a response (R81). -/
def Response.kind : Response → BitVec 2
  | .ok _ => 0#2
  | .error _ => 1#2
  | .refused _ => 2#2

/-- The `code` field of a response (R81). -/
def Response.code : Response → BitVec 4
  | .ok _ => 0#4
  | .error e => 0#2 ++ e.code
  | .refused r => r.code

/-- The `data` field of a response: "All other cases: zero" (R81). -/
def Response.data : Response → BitVec 128
  | .ok d => d
  | .error _ => 0#128
  | .refused _ => 0#128

/-- The response as one record of format `RESP`, `{kind, code, data}`, 134 bits (R81, D23). -/
def Response.record (r : Response) : BitVec 134 := r.kind ++ r.code ++ r.data

end Sys2Proof.Machine
end

