-- ==== Sys2Proof/Machine/Ops.lean ====
section
/-! DEFINITION. The named operations over the state: the schedule store, the key buffer, the responses, the entry
to and the exit from the error state, the stages of a sequencer step, reset, and what a step fetches. -/

namespace Sys2Proof.Machine

/-- An operation's result as the outcome of a step. -/
def outcomeOf : Except Fault State → Host.Outcome State Fault Refusal
  | .ok s => .next s
  | .error f => .fault f

/-! ### The schedule store and the key buffer -/

/-- Read `W[i]`: "A read `W[i]` while `WV[i] = 0` has no value: it is `fault ReadUnwritten(i)`" (R22). -/
def readSchedule (i : Nat) (s : State) : Except Fault Word :=
  if h : i < 44 then
    if s.wv[i] then .ok s.w[i] else .error (.readUnwritten i)
  else .error (.badIndex i)

/-- Write `W[i] <- v`, which sets `WV[i] <- 1` (R22). -/
def writeSchedule (i : Nat) (v : Word) (s : State) : Except Fault State :=
  if h : i < 44 then .ok { s with w := s.w.set i v, wv := s.wv.set i true }
  else .error (.badIndex i)

/-- The four words of round key `r`, packed (R24, R53, R185). -/
def readRoundKey (r : Nat) (s : State) : Except Fault (BitVec 128) := do
  let a ← readSchedule (4 * r) s
  let b ← readSchedule (4 * r + 1) s
  let c ← readSchedule (4 * r + 2) s
  let d ← readSchedule (4 * r + 3) s
  return roundKeyData a b c d

/-- `WV[n] <- 0` for all `n`, and `IDX <- 0`: what `START` does "before anything else" (R23, R183). The words
themselves are not written (R56; DEDUCED, safe, notes/assumptions/6.md). -/
def clearSchedule (s : State) : State := { s with wv := Vector.replicate 44 false, idx := 0#6 }

/-- Push one key byte: the 17th and later store nothing, and the count saturates (R181). -/
def pushKeyByte (b : Byte) (s : State) : State :=
  { s with
    k := if h : s.kcnt.toNat < 16 then s.k.set s.kcnt.toNat b else s.k
    kcnt := nextKcnt s.kcnt }

/-! ### Responses -/

/-- Give the response to a consumed word (R180, R191). -/
def respond (r : Response) (s : State) : State := { s with responses := s.responses ++ [r] }

/-- Refuse a command word: the answer `REFUSED <reason>` and no other change; "the next word is processed
normally" (R187, R216; DESIGN CHOICE to run it, unsafe, notes/assumptions/2.md). -/
def refuse (r : RefuseReason) (s : State) : State := respond (.refused r) s

/-! ### The one exception -/

/-- Entry to the error state, `raise InvalidKeyLength` (R212): no word is readable, the counters are zero, the
error is recorded and reported. Nothing is saved and control goes nowhere. -/
def raiseInvalidKeyLength (s : State) : State :=
  respond (.error .invalidKeyLength)
    { s with wv := Vector.replicate 44 false, idx := 0#6, kcnt := 0#5, err := .invalidKeyLength, st := .error }

/-- The accepted `START` (R183), which is also the only exit from the error state other than reset (R214). Its
response is given by the step that ends the expansion (R188). -/
def beginExpansion (s : State) : State := { s with kcnt := 0#5, err := .none, st := .busy }

/-! ### The stages of a sequencer step (R125)

`TEMP` and `P` keep their last values between steps (DEDUCED, safe, notes/assumptions/5.md). -/

/-- `S0`: `TEMP <- W[i-1]`, `P <- W[i-4]`. -/
def fetchSources (i : Index) (s : State) : Except Fault State := do
  let t ← readSchedule (prevIndex i).toNat s
  let p ← readSchedule (backIndex i).toNat s
  return { s with temp := t, p := p }

/-- `S1`: `TEMP <- RotWord(TEMP)`. -/
def rotateTemp (s : State) : State := { s with temp := rotWord s.temp }

/-- `S2`: `TEMP <- SubWord(TEMP)`, four S-box lanes. -/
def substituteTemp (s : State) : State := { s with temp := subWord s.temp }

/-- `S3`: `TEMP <- RconXor(TEMP, j)`; a fault where `RCON[j]` does not exist (U4). -/
def injectRcon (j : BitVec 4) (s : State) : Except Fault State :=
  match rconXor s.temp j with
  | some t => .ok { s with temp := t }
  | none => .error (.noRcon j.toNat)

/-- `S4`: `W[i] <- XorWord(P, TEMP)`. -/
def combineInto (i : Index) (s : State) : Except Fault State :=
  writeSchedule i.toNat (xorWord s.p s.temp) s

/-- The common tail of every step (R151): "if IDX == 43 then ST <- DONE", "IDX <- IDX + 1". The step that ends
the expansion gives the response of the `START` that began it (R188). -/
def finishStep (s : State) : State :=
  { s with
    st := if s.idx = 43#6 then .done else s.st
    responses := if s.idx = 43#6 then s.responses ++ [.ok 0#128] else s.responses
    idx := nextIndex s.idx }

/-! ### Reset and what a step fetches -/

/-- Reset is asserted at the coming step (R240); not asserted once the list has run out (DESIGN CHOICE, unsafe,
notes/assumptions/3.md). -/
def resetAsserted (s : State) : Bool := s.resetIn.headD false

/-- Reset: the state becomes that of R40, no response is given, and the word then presented is dropped
(R240, R241). The rest of the host's script, the further samples of the reset input and the responses already
given lie outside the block and stay (DESIGN CHOICE, unsafe, notes/assumptions/3.md). -/
def applyReset (s : State) : State :=
  { State.reset with port := s.port.drop 1, resetIn := s.resetIn.drop 1, responses := s.responses }

/-- What selects the next operation: `IDX` while `BUSY` (R150), when every host word is held (R188); otherwise
the presented word, if there is one (R180). -/
def fetch (s : State) : Option Encoded :=
  if s.st = .busy then some (.index s.idx) else s.port.head?.map .command

/-- The state in which the fetched operation runs: a sample of the reset input has passed, and a host word that
is not held has been consumed. -/
def consume (s : State) : State :=
  { s with
    resetIn := s.resetIn.drop 1
    port := if s.st = .busy then s.port else s.port.drop 1 }

/-- A bit pattern that selects no operation. A command word is refused (R85, R187); an index at which no step
exists is a fault (R12, R90; at 44 DESIGN CHOICE, safe, notes/assumptions/7.md). -/
def reject (r : DecodeReject) (s : State) : Host.Outcome State Fault Refusal :=
  match r with
  | .reservedOpcode => .next (refuse .reservedOpcode s)
  | .nonZeroReserved => .next (refuse .nonZeroReserved s)
  | .expansionComplete => .fault .noStepEnabled
  | .badIndex => .fault (.badIndex s.idx.toNat)

/-! ### Placing an operation where the next step fetches it (DESIGN CHOICE, safe, notes/assumptions/10.md) -/

/-- The written flags of a `BUSY` state at index `i`: "`WV[i] = 1` exactly for `i < IDX`" (R45 (b)). -/
def flagsBelow (i : Index) : Vector Bool 44 :=
  ⟨((List.range 44).map fun n => decide (n < i.toNat)).toArray, by simp⟩

/-- Present a command word before all others, the hold lifted (R188). -/
def placeCommand (w : CommandWord) (s : State) : State :=
  { s with
    port := w :: s.port
    st := if s.st = .busy then .idle else s.st
    resetIn := false :: s.resetIn }

/-- Put the sequencer at index `i` of an expansion: `BUSY`, the counter there, and the words below it written. -/
def placeIndex (i : Index) (s : State) : State :=
  { s with st := .busy, idx := i, wv := flagsBelow i, resetIn := false :: s.resetIn }

/-- Place whatever selects an operation. -/
def place (e : Encoded) (s : State) : State :=
  match e with
  | .command w => placeCommand w s
  | .index i => placeIndex i s

end Sys2Proof.Machine
end

