-- ==== Sys2Proof/Machine/HostCommands.lean ====
section
/-! DEFINITION. The five host commands (spec/44_host_commands.md). A meaning runs on the state in which its word
has been consumed; the hold while `BUSY` (R188) is in what a step fetches (Machine/Ops.lean). -/

namespace Sys2Proof.Machine

/-- `KPUSH b` (R181). -/
def execKpush (b : Byte) (s : State) : Host.Outcome State Fault Refusal :=
  .next (respond (.ok 0#128) (pushKeyByte b s))

/-- `START` (R183): the schedule is cleared before the length is checked (D20). -/
def execStart (s : State) : Host.Outcome State Fault Refusal :=
  if s.kcnt = 16#5 then .next (beginExpansion (clearSchedule s))
  else .next (raiseInvalidKeyLength (clearSchedule s))

/-- `RDW i` (R184): the range check comes before the state check. -/
def execRdw (i : BitVec 8) (s : State) : Host.Outcome State Fault Refusal :=
  if 43 < i.toNat then .next (refuse .indexOutOfRange s)
  else if s.st ≠ .done then .next (refuse .notDone s)
  else outcomeOf do return respond (.ok (wordData (← readSchedule i.toNat s))) s

/-- `RDRK r` (R185): the range check comes before the state check. -/
def execRdrk (r : BitVec 8) (s : State) : Host.Outcome State Fault Refusal :=
  if 10 < r.toNat then .next (refuse .indexOutOfRange s)
  else if s.st ≠ .done then .next (refuse .notDone s)
  else outcomeOf do return respond (.ok (← readRoundKey r.toNat s)) s

/-- `RDST` (R186). -/
def execRdst (s : State) : Host.Outcome State Fault Refusal :=
  .next (respond (.ok (statusData s)) s)

end Sys2Proof.Machine
end

