-- ==== Sys2Proof/Machine/Sequencer.lean ====
section
/-! DEFINITION. The three step kinds of the sequencer (spec/43_sequencer.md). The operands `j` and `k` are the
fields of `IDX` the step was decoded from (R82, R84); each step is one atomic transition (R57, R150).
The tail reads `IDX` itself; in every step the two agree (DESIGN CHOICE, safe, notes/assumptions/8.md). -/

namespace Sys2Proof.Machine

/-- `KS_COPY` at index `k` (R152): `W[k] <- {K[4k], K[4k+1], K[4k+2], K[4k+3]}`. -/
def execKsCopy (k : BitVec 2) (s : State) : Host.Outcome State Fault Refusal :=
  outcomeOf do
    let s ← writeSchedule (stepIndex 0#4 k).toNat (keyWord s.k k) s
    return finishStep s

/-- `KS_G` at index `4j` (R153): `W[i] <- W[i-4] XOR G(W[i-1], j)`, through all five stages. -/
def execKsG (j : BitVec 4) (s : State) : Host.Outcome State Fault Refusal :=
  outcomeOf do
    let s ← fetchSources (stepIndex j 0#2) s
    let s ← injectRcon j (substituteTemp (rotateTemp s))
    let s ← combineInto (stepIndex j 0#2) s
    return finishStep s

/-- `KS_X` at index `4j + k` (R154): `W[i] <- W[i-4] XOR W[i-1]`, stages `S0` and `S4` only. -/
def execKsX (j : BitVec 4) (k : BitVec 2) (s : State) : Host.Outcome State Fault Refusal :=
  outcomeOf do
    let s ← fetchSources (stepIndex j k) s
    let s ← combineInto (stepIndex j k) s
    return finishStep s

end Sys2Proof.Machine
end

