-- ==== Sys2Proof/Machine/Dispatch.lean ====
section
/-! DEFINITION. One arm per operation of spec/opcode_table.json. -/

namespace Sys2Proof.Machine

def exec (i : Instr) (s : State) : Host.Outcome State Fault Refusal :=
  match i with
  -- the host commands, format CMD16
  | .kpush b => Sys2Proof.Machine.execKpush b s
  | .start => Sys2Proof.Machine.execStart s
  | .rdw n => Sys2Proof.Machine.execRdw n s
  | .rdrk r => Sys2Proof.Machine.execRdrk r s
  | .rdst => Sys2Proof.Machine.execRdst s
  -- the sequencer's step kinds, format IDX6
  | .ksCopy k => Sys2Proof.Machine.execKsCopy k s
  | .ksG j => Sys2Proof.Machine.execKsG j s
  | .ksX j k => Sys2Proof.Machine.execKsX j k s

end Sys2Proof.Machine
end

