-- ==== Sys2Proof/Machine/Step.lean ====
section
/-! DEFINITION. One step of the machine (spec/00_scope.md R13): a reset event, a sequencer step, the processing
of one presented command word, or a wait. Which of them comes next is read off the state. -/

namespace Sys2Proof.Machine

/-- One atomic transition. Reset overrides everything (R218, R240); while `BUSY` the sequencer is the only agent
with an enabled step (R156); otherwise the presented word is processed (R180); with no word presented the block
"simply waits for a command, keeping all state" (R226). -/
def step (s : State) : Host.Outcome State Fault Refusal :=
  if resetAsserted s then .next (applyReset s)
  else
    match fetch s with
    | none => .next (consume s)
    | some e =>
      match decode e with
      | .ok i => exec i (consume s)
      | .error r => reject r (consume s)

/-- `s` with the operation of a table row placed where the next step finds it: a command word at the head of the
port with the hold lifted, an index in the counter of a `BUSY` block whose earlier words are written. Bits that
are no encoding of the format change nothing. -/
def State.withFetchWord (s : State) (nbits w : Nat) : State :=
  match tableEncoding nbits w with
  | none => s
  | some e => place e s

end Sys2Proof.Machine
end

