-- ==== Sys2Proof/Machine/Expand.lean ====
section
/-! DEFINITION. `Expand(key)`, the expansion as one function of the key (spec/43_sequencer.md R160). The machine
does not call it: it is the function that an accepted `START` and its 44 steps are said to compute. -/

namespace Sys2Proof.Machine

/-- Word `i` of the schedule from the words before it (R160). -/
def nextScheduleWord (key : Vector Byte 16) (before : List Word) (i : Nat) : Option Word :=
  if i < 4 then some (keyWord key (BitVec.ofNat 2 i))
  else do
    let t ← transformAt i (← before[i - 1]?)
    return xorWord (← before[i - 4]?) t

/-- The first `n` words of the schedule of `key`. -/
def expandWords (key : Vector Byte 16) : Nat → Option (List Word)
  | 0 => some []
  | n + 1 => do
    let before ← expandWords key n
    return before ++ [← nextScheduleWord key before n]

/-- `Expand(key)`: the 44 words (R160). -/
def expand (key : Vector Byte 16) : Option (List Word) := expandWords key Config.nwords

end Sys2Proof.Machine
end

