-- ==== Sys2Proof/Machine/Script.lean ====
section
/-! DEFINITION. Host scripts: the text form of commands and the pseudo-instructions (spec/30_encoding.md R95, R96).
This is notation (D22): the block sees only the command words. Text is a list of characters; blanks and the case of
hex digits are the model's (DESIGN CHOICE, safe, notes/assumptions/17.md). -/

namespace Sys2Proof.Machine

/-- One line of a host script (R95, R96). -/
inductive ScriptLine where
  | kpush (b : Byte)
  | start
  | rdw (i : BitVec 8)
  | rdrk (r : BitVec 8)
  | rdst
  /-- `.cmd <w>`: a raw command word. -/
  | raw (w : CommandWord)
  /-- `KEY <hex string>`: push the bytes, first byte of the string first. -/
  | key (bytes : List Byte)
  /-- `EXPAND <hex string>`: `KEY <the string>` then `START`. -/
  | expand (bytes : List Byte)
  /-- `RDSCHED`: `RDRK 0` .. `RDRK 10`. -/
  | rdsched
  deriving DecidableEq, Repr

/-- The word of a host command as the opcode map writes it (R83). -/
def kpushWord (b : Byte) : CommandWord := commandWord 0x1#4 b
def startWord : CommandWord := commandWord 0x2#4 0#8
def rdwWord (i : BitVec 8) : CommandWord := commandWord 0x3#4 i
def rdrkWord (r : BitVec 8) : CommandWord := commandWord 0x4#4 r
def rdstWord : CommandWord := commandWord 0x5#4 0#8

/-- `KEY` (R96): one `KPUSH` per byte, in order; the list may be empty. -/
def keyScript (bytes : List Byte) : List CommandWord := bytes.map kpushWord

/-- `EXPAND` (R96, R189): the key, then `START`. -/
def expandScript (bytes : List Byte) : List CommandWord := keyScript bytes ++ [startWord]

/-- `RDSCHED` (R96): all eleven round keys in order. -/
def readScheduleScript : List CommandWord := (List.range 11).map fun r => rdrkWord (BitVec.ofNat 8 r)

/-- The command words of a line. -/
def ScriptLine.words : ScriptLine → List CommandWord
  | .kpush b => [kpushWord b]
  | .start => [startWord]
  | .rdw i => [rdwWord i]
  | .rdrk r => [rdrkWord r]
  | .rdst => [rdstWord]
  | .raw w => [w]
  | .key bytes => keyScript bytes
  | .expand bytes => expandScript bytes
  | .rdsched => readScheduleScript

/-- The value of a hexadecimal digit. -/
def hexDigit (c : Char) : Option Nat :=
  if '0' ≤ c ∧ c ≤ '9' then some (c.toNat - '0'.toNat)
  else if 'a' ≤ c ∧ c ≤ 'f' then some (c.toNat - 'a'.toNat + 10)
  else if 'A' ≤ c ∧ c ≤ 'F' then some (c.toNat - 'A'.toNat + 10)
  else none

/-- Digits read in a base after the value read so far. -/
def digitsFrom (base acc : Nat) : List Char → Option Nat
  | [] => some acc
  | c :: cs =>
    match hexDigit c with
    | some d => if d < base then digitsFrom base (base * acc + d) cs else none
    | none => none

/-- An operand: "decimal or `0x` hexadecimal" (R95), with at least one digit. -/
def parseNumber : List Char → Option Nat
  | '0' :: 'x' :: d :: ds => digitsFrom 16 0 (d :: ds)
  | d :: ds => digitsFrom 10 0 (d :: ds)
  | [] => none

/-- An operand of 8 bits: "0..255" (R95). -/
def parseByte (t : List Char) : Option Byte :=
  match parseNumber t with
  | some n => if n < 256 then some (BitVec.ofNat 8 n) else none
  | none => none

/-- A raw 16-bit word (R95). -/
def parseWord (t : List Char) : Option CommandWord :=
  match parseNumber t with
  | some n => if n < 65536 then some (BitVec.ofNat 16 n) else none
  | none => none

/-- A hex string of `2n` digits as `n` bytes, first byte first (R9, R96). -/
def parseHexBytes : List Char → Option (List Byte)
  | [] => some []
  | [_] => none
  | a :: b :: rest =>
    match hexDigit a, hexDigit b, parseHexBytes rest with
    | some x, some y, some bytes => some (BitVec.ofNat 8 (16 * x + y) :: bytes)
    | _, _, _ => none

/-- Split at blanks, `current` being the token read so far. -/
def tokensFrom (current : List Char) : List Char → List (List Char)
  | [] => if current = [] then [] else [current]
  | c :: cs =>
    if c = ' ' ∨ c = '\t' then (if current = [] then [] else [current]) ++ tokensFrom [] cs
    else tokensFrom (current ++ [c]) cs

/-- The tokens of a line; "`;` starts a comment" (R95). -/
def tokens (line : List Char) : List (List Char) := tokensFrom [] (line.takeWhile (· ≠ ';'))

/-- A line with an operand: the mnemonic in capitals, then the operand (R95, R96). -/
def parseOperandLine (m t : List Char) : Option ScriptLine :=
  if m = ['K', 'P', 'U', 'S', 'H'] then (parseByte t).map .kpush
  else if m = ['R', 'D', 'W'] then (parseByte t).map .rdw
  else if m = ['R', 'D', 'R', 'K'] then (parseByte t).map .rdrk
  else if m = ['.', 'c', 'm', 'd'] then (parseWord t).map .raw
  else if m = ['K', 'E', 'Y'] then (parseHexBytes t).map .key
  else if m = ['E', 'X', 'P', 'A', 'N', 'D'] then (parseHexBytes t).map .expand
  else none

/-- A line that is a mnemonic alone; the hex string of `KEY` and `EXPAND` may be empty (R96). -/
def parseBareLine (m : List Char) : Option ScriptLine :=
  if m = ['S', 'T', 'A', 'R', 'T'] then some .start
  else if m = ['R', 'D', 'S', 'T'] then some .rdst
  else if m = ['R', 'D', 'S', 'C', 'H', 'E', 'D'] then some .rdsched
  else if m = ['K', 'E', 'Y'] then some (.key [])
  else if m = ['E', 'X', 'P', 'A', 'N', 'D'] then some (.expand [])
  else none

/-- The command words a line of text assembles to; a blank or comment line to none of them. `none` where the
line is not of the text form. -/
def assembleLine (line : List Char) : Option (List CommandWord) :=
  match tokens line with
  | [] => some []
  | [m] => (parseBareLine m).map ScriptLine.words
  | [m, t] => (parseOperandLine m t).map ScriptLine.words
  | _ => none

end Sys2Proof.Machine
end

