-- ==== Sys2Proof/Safety.lean ====
section
/-! DEFINITION. The terms claims use: the invariants of spec/10_state.md R45, a quiet reset input, a run that has
not gone wrong (R216), what it is to be the expansion of a key (R46, R160), and two relations between states,
one that forgets what the spec calls unobservable (R40, R31) and one that forgets all data (R252). -/

namespace Sys2Proof.Machine

/-- The invariants (a) to (e) of R45. -/
structure Inv (s : State) : Prop where
  /-- (a) "if `ST = IDLE` or `ST = ERROR` then `WV[i] = 0` for all `i`". -/
  noSchedule : s.st = .idle ∨ s.st = .error → ∀ i : Fin 44, s.wv[i] = false
  /-- (b) "if `ST = BUSY` then `0 <= IDX <= 43` and `WV[i] = 1` exactly for `i < IDX`". -/
  partialSchedule : s.st = .busy →
    s.idx.toNat ≤ 43 ∧ ∀ i : Fin 44, s.wv[i] = true ↔ i.val < s.idx.toNat
  /-- (c) "if `ST = DONE` then `IDX = 44` and `WV[i] = 1` for all `i`". -/
  fullSchedule : s.st = .done → s.idx = 44#6 ∧ ∀ i : Fin 44, s.wv[i] = true
  /-- (d) "`ERR = 1` if and only if `ST = ERROR`". -/
  errorRecorded : s.err = .invalidKeyLength ↔ s.st = .error
  /-- (e) "`KCNT <= 17`". -/
  countBounded : s.kcnt.toNat ≤ 17

/-- Reset is not asserted at any of the next `n` steps. -/
def QuietFor (n : Nat) (s : State) : Prop := ∀ b ∈ s.resetIn.take n, b = false

/-- The response to the `START` that began the running expansion is still to come (R188). -/
def State.owed (s : State) : Nat := if s.st = .busy then 1 else 0

/-- The run has not gone wrong: no command word has been refused (R216). -/
def State.clean (s : State) : Bool := s.responses.all fun r => decide (r.kind ≠ 2#2)

/-- `n` steps of the machine. -/
def runSteps (n : Nat) (s : State) : Host.Outcome State Fault Refusal := Host.Core.run Sys2Proof.core n s

/-- `w` holds the schedule of `key`: the recurrence of R46 (b), (c) and R160. -/
def IsExpansion (key : Vector Byte 16) (w : Vector Word 44) : Prop :=
  (∀ j : BitVec 2, w[j.toNat]'(Nat.lt_trans j.isLt (by decide)) = keyWord key j) ∧
  ∀ i (h : i < 44), 4 ≤ i →
    ∃ t, transformAt i w[i - 1] = some t ∧ w[i] = xorWord w[i - 4] t

/-- Two outcomes of one kind, whose next states are related and whose reasons to stop are the same. -/
def outcomesRelated (r : State → State → Prop) :
    Host.Outcome State Fault Refusal → Host.Outcome State Fault Refusal → Prop
  | .next s, .next t => r s t
  | .fault a, .fault b => a = b
  | .refused a, .refused b => a = b
  | _, _ => False

/-- The two states differ at most in what R40, R31 and spec/93_implementation_defined.md U1, U2 call
unobservable: words under a clear flag, key bytes not yet pushed (outside an expansion), `TEMP` and `P`. -/
structure SameObservable (s t : State) : Prop where
  kcnt : s.kcnt = t.kcnt
  wv : s.wv = t.wv
  idx : s.idx = t.idx
  st : s.st = t.st
  err : s.err = t.err
  port : s.port = t.port
  resetIn : s.resetIn = t.resetIn
  responses : s.responses = t.responses
  /-- The words that can be read agree. -/
  writtenWords : ∀ i : Fin 44, s.wv[i] = true → s.w[i] = t.w[i]
  /-- The key bytes that count agree: all of them during an expansion, else those pushed. -/
  pushedBytes : ∀ n : Fin 16, s.st = .busy ∨ n.val < s.kcnt.toNat → s.k[n] = t.k[n]

/-- The frame of a sequencer step that writes `W[n]` (R151): "Nothing else changes: not `K`, not `KCNT`, not `ERR`,
not any `W[n]` with `n != IDX`". `ST`, `IDX` and the response owed follow the common tail (R151, R188); `TEMP` and
`P` are left to each step kind. -/
structure SequencerFrame (n : Nat) (s t : State) : Prop where
  otherWords : ∀ m : Fin 44, m.val ≠ n → t.w[m] = s.w[m] ∧ t.wv[m] = s.wv[m]
  k : t.k = s.k
  kcnt : t.kcnt = s.kcnt
  err : t.err = s.err
  port : t.port = s.port
  resetIn : t.resetIn = s.resetIn
  idx : t.idx = s.idx + 1#6
  st : t.st = if s.idx = 43#6 then .done else s.st
  responses : t.responses = if s.idx = 43#6 then s.responses ++ [.ok 0#128] else s.responses

/-- A command word with the key byte of a `KPUSH` forgotten. -/
def commandShape (w : CommandWord) : CommandWord :=
  if opField w = 0x1#4 ∧ rsvField w = 0#4 then commandWord 0x1#4 0#8 else w

/-- A response with its data forgotten. -/
def Response.shape (r : Response) : BitVec 2 × BitVec 4 := (r.kind, r.code)

/-- The two states differ at most in data: key bytes held or still to be pushed, schedule words, `TEMP`, `P`,
and the data of responses (R252). -/
structure SameControl (s t : State) : Prop where
  kcnt : s.kcnt = t.kcnt
  wv : s.wv = t.wv
  idx : s.idx = t.idx
  st : s.st = t.st
  err : s.err = t.err
  port : s.port.map commandShape = t.port.map commandShape
  resetIn : s.resetIn = t.resetIn
  responses : s.responses.map Response.shape = t.responses.map Response.shape

/-! ### The definition the S-box was computed from (R112) -/

/-- Multiply by `x` in GF(2^8) modulo `x^8 + x^4 + x^3 + x + 1` (R112, R123). -/
def xtime (a : Byte) : Byte := if a.msb then (a <<< 1) ^^^ 0x1b#8 else a <<< 1

/-- The product of `a` and the polynomial whose coefficients are bits `n-1`..0 of `b`. -/
def gfMulBits (a b : Byte) : Nat → Byte
  | 0 => 0#8
  | n + 1 => gfMulBits a b n ^^^ (if b.getLsbD n then (Nat.repeat xtime n a) else 0#8)

/-- Multiplication of bytes as polynomials over GF(2) modulo `m(x)` (R112). -/
def gfMul (a b : Byte) : Byte := gfMulBits a b 8

/-- "`b` be the multiplicative inverse of `a` in that field, with `b = 0` when `a = 0`" (R112). -/
def IsGfInverse (a b : Byte) : Prop := if a = 0#8 then b = 0#8 else gfMul a b = 1#8

/-- `b XOR rotl8(b,1) XOR rotl8(b,2) XOR rotl8(b,3) XOR rotl8(b,4) XOR 0x63` (R112). -/
def sboxAffine (b : Byte) : Byte :=
  b ^^^ b.rotateLeft 1 ^^^ b.rotateLeft 2 ^^^ b.rotateLeft 3 ^^^ b.rotateLeft 4 ^^^ 0x63#8

end Sys2Proof.Machine
end

