-- ==== Sys2Proof/Certificates/Slice0/Obligations.lean ====
section
/-! DEFINITION. The statements about the model, from the numbered rules of spec/. Each docstring names its rules. -/

open Sys2Proof Sys2Proof.Machine

/-! ### Encodings -/

/-- Words written out from the opcode map R83 and patterns from R90 decode to the operations they stand for. -/
def Obligations.SpecWordsDecodeToTheirOperations : Prop :=
  decode (.command 0x102b#16) = .ok (.kpush 0x2b#8) ∧
  decode (.command 0x2000#16) = .ok .start ∧
  decode (.command 0x302b#16) = .ok (.rdw 43#8) ∧
  decode (.command 0x400a#16) = .ok (.rdrk 10#8) ∧
  decode (.command 0x5000#16) = .ok .rdst ∧
  decode (.index 0b000011#6) = .ok (.ksCopy 3#2) ∧
  decode (.index 0b000100#6) = .ok (.ksG 1#4) ∧
  decode (.index 0b000111#6) = .ok (.ksX 1#4 3#2) ∧
  decode (.index 0b101000#6) = .ok (.ksG 10#4) ∧
  decode (.index 0b101011#6) = .ok (.ksX 10#4 3#2)

/-- Decoding an encoded operation gives it back: every well-formed operation, and the two read commands at every
operand their 8-bit field admits (R80, R83, R84, R90). -/
def Obligations.DecodeOfEncodeIsTheOperation : Prop :=
  (∀ i : Instr, i.wellFormed = true → decode (encode i) = .ok i) ∧
  (∀ n : BitVec 8, decode (encode (.rdw n)) = .ok (.rdw n)) ∧
  (∀ r : BitVec 8, decode (encode (.rdrk r)) = .ok (.rdrk r))

/-- Each bit pattern that decodes has one meaning: it is the encoding of the operation it decodes to, and an index
that decodes gives a well-formed step (R83, R90). -/
def Obligations.DecodedBitsAreTheEncoding : Prop :=
  (∀ (e : Encoded) (i : Instr), decode e = .ok i → encode i = e) ∧
  (∀ (n : Index) (i : Instr), decodeIndex n = .ok i → i.wellFormed = true)

/-- The bits of a response record (R81) and the reason codes (R86). -/
def Obligations.ResponseRecordFields : Prop :=
  (∀ d : BitVec 128, (Response.ok d).record.toNat = d.toNat) ∧
  (Response.error .invalidKeyLength).record.toNat = 1 * 2 ^ 132 + 1 * 2 ^ 128 ∧
  (Response.refused .reservedOpcode).record.toNat = 2 * 2 ^ 132 + 1 * 2 ^ 128 ∧
  (Response.refused .nonZeroReserved).record.toNat = 2 * 2 ^ 132 + 2 * 2 ^ 128 ∧
  (Response.refused .indexOutOfRange).record.toNat = 2 * 2 ^ 132 + 3 * 2 ^ 128 ∧
  (Response.refused .notDone).record.toNat = 2 * 2 ^ 132 + 4 * 2 ^ 128

/-- The pseudo-instructions expand to the commands of R96. -/
def Obligations.PseudoInstructionsExpand : Prop :=
  (∀ bytes : List Byte,
    (keyScript bytes).map decodeCommand = bytes.map (fun b => .ok (.kpush b)) ∧
    (expandScript bytes).map decodeCommand = bytes.map (fun b => .ok (.kpush b)) ++ [.ok .start]) ∧
  readScheduleScript.map decodeCommand =
    (List.range 11).map (fun r => .ok (.rdrk (BitVec.ofNat 8 r)))

/-! ### What a step does -/

/-- A step runs the decoded operation: the presented word when the block is not `BUSY` (R180), the step kind of
`IDX` when it is (R150). Around `exec` a step takes one sample of the reset input and consumes the word. -/
def Obligations.StepRunsTheDecodedOperation : Prop :=
  (∀ (s : State) (w : CommandWord) (rest : List CommandWord) (i : Instr),
    resetAsserted s = false → s.st ≠ .busy → s.port = w :: rest → decodeCommand w = .ok i →
    step s = exec i { s with port := rest, resetIn := s.resetIn.drop 1 }) ∧
  (∀ (s : State) (i : Instr),
    resetAsserted s = false → s.st = .busy → decodeIndex s.idx = .ok i →
    step s = exec i { s with resetIn := s.resetIn.drop 1 })

/-- The complete list of step kinds (R91): which one runs at each index 0..43 while `BUSY`. -/
def Obligations.StepKindFollowsTheIndex : Prop :=
  ∀ s : State, resetAsserted s = false → s.st = .busy →
    (s.idx.toNat ≤ 3 →
      step s = exec (.ksCopy (BitVec.ofNat 2 s.idx.toNat)) { s with resetIn := s.resetIn.drop 1 }) ∧
    (4 ≤ s.idx.toNat → s.idx.toNat ≤ 43 → s.idx.toNat % 4 = 0 →
      step s = exec (.ksG (BitVec.ofNat 4 (s.idx.toNat / 4))) { s with resetIn := s.resetIn.drop 1 }) ∧
    (4 ≤ s.idx.toNat → s.idx.toNat ≤ 43 → s.idx.toNat % 4 ≠ 0 →
      step s = exec (.ksX (BitVec.ofNat 4 (s.idx.toNat / 4)) (BitVec.ofNat 2 (s.idx.toNat % 4)))
        { s with resetIn := s.resetIn.drop 1 })

/-- The index values at which no step exists (R90). `BadIndex` from 45 on is the spec's fault; the fault at 44, which
the spec calls only "no step", is this model's choice (notes/assumptions/7.md). No run reaches either (R45). -/
def Obligations.BusyOutsideTheStepsIsAFault : Prop :=
  ∀ s : State, resetAsserted s = false → s.st = .busy →
    (45 ≤ s.idx.toNat → step s = .fault (.badIndex s.idx.toNat)) ∧
    (s.idx.toNat = 44 → step s = .fault .noStepEnabled)

/-- With no word presented the block waits, "keeping all state" (R226). -/
def Obligations.WaitingKeepsAllState : Prop :=
  ∀ s : State, resetAsserted s = false → s.st ≠ .busy → s.port = [] →
    step s = .next { s with resetIn := s.resetIn.drop 1 }

/-- Reset in any state overrides everything and leaves the values of R40 (R240, R218). How reset arrives is the
model's own convention (notes/assumptions/3.md). -/
def Obligations.ResetGivesTheResetValues : Prop :=
  ∀ s : State, resetAsserted s = true →
    ∃ t, step s = .next t ∧
      t.st = .idle ∧ t.err = .none ∧ t.kcnt = 0#5 ∧ t.idx = 0#6 ∧ (∀ i : Fin 44, t.wv[i] = false) ∧ Inv t

/-- Reset during an expansion (R241): no word stays readable, no response is given, and the held word is dropped.
(How reset and the port are held as data: notes/assumptions/3.md and 4.md.) -/
def Obligations.ResetDuringAnExpansionDiscardsIt : Prop :=
  ∀ s : State, resetAsserted s = true → s.st = .busy →
    ∃ t, step s = .next t ∧ t.st = .idle ∧ (∀ i : Fin 44, t.wv[i] = false) ∧
      t.responses = s.responses ∧ t.port = s.port.drop 1

/-- While `BUSY` no host word is consumed, and the response to the accepted `START` comes when the hold ends
(R188). -/
def Obligations.HostIsHeldWhileBusy : Prop :=
  ∀ s t : State, resetAsserted s = false → s.st = .busy → step s = .next t →
    t.port = s.port ∧
    (s.idx ≠ 43#6 → t.responses = s.responses ∧ t.st = .busy) ∧
    (s.idx = 43#6 → t.responses = s.responses ++ [.ok 0#128] ∧ t.st = .done)

/-- The words the block refuses (R85), the order of the checks (R86), and that a refused word changes nothing but
that it is answered (R187). This is not a licence to rely on refused words: `State.clean` marks such a run
(R216, notes/assumptions/2.md). -/
def Obligations.RefusedWordsAreAnsweredAndChangeNothing : Prop :=
  ∀ (s : State) (w : CommandWord) (rest : List CommandWord),
    resetAsserted s = false → s.st ≠ .busy → s.port = w :: rest →
    let refusedWith (r : RefuseReason) : Prop :=
      step s = .next { s with
        port := rest, resetIn := s.resetIn.drop 1, responses := s.responses ++ [.refused r] }
    let op := (w.extractLsb' 12 4).toNat
    let rsv := (w.extractLsb' 8 4).toNat
    let arg := (w.extractLsb' 0 8).toNat
    (op = 0 ∨ 6 ≤ op → refusedWith .reservedOpcode) ∧
    (1 ≤ op → op ≤ 5 → rsv ≠ 0 → refusedWith .nonZeroReserved) ∧
    (op = 2 ∨ op = 5 → rsv = 0 → arg ≠ 0 → refusedWith .nonZeroReserved) ∧
    (op = 3 → rsv = 0 → 43 < arg → refusedWith .indexOutOfRange) ∧
    (op = 4 → rsv = 0 → 10 < arg → refusedWith .indexOutOfRange) ∧
    (op = 3 → rsv = 0 → arg ≤ 43 → s.st ≠ .done → refusedWith .notDone) ∧
    (op = 4 → rsv = 0 → arg ≤ 10 → s.st ≠ .done → refusedWith .notDone)

/-- Every consumed word gets exactly one response, and no response is taken back (R180): words to come, responses
given and the response owed by a running expansion keep their sum. -/
def Obligations.EveryConsumedWordGetsOneResponse : Prop :=
  ∀ s t : State, resetAsserted s = false → step s = .next t →
    t.port.length + t.responses.length + t.owed = s.port.length + s.responses.length + s.owed ∧
    s.responses <+: t.responses

/-- An operation placed by `withFetchWord` is what the next step runs (the model's own convention,
notes/assumptions/10.md). -/
def Obligations.PlacedOperationIsRunNext : Prop :=
  (∀ (s : State) (w : CommandWord) (i : Instr), decodeTableWord 16 w.toNat = some i →
    step (s.withFetchWord 16 w.toNat) = exec i { s with st := if s.st = .busy then .idle else s.st }) ∧
  (∀ (s : State) (n : Index) (i : Instr), decodeTableWord 8 n.toNat = some i →
    step (s.withFetchWord 8 n.toNat) = exec i { s with st := .busy, idx := n, wv := flagsBelow n })

/-! ### The control registers over one step -/

/-- `ST` over any step (R28): the table of transitions, and no others. -/
def Obligations.StateFieldTransitions : Prop :=
  ∀ s t : State, step s = .next t →
    t.st =
      if resetAsserted s then .idle
      else if s.st = .busy then (if s.idx = 43#6 then .done else .busy)
      else if s.port.head? = some 0x2000#16 then (if s.kcnt = 16#5 then .busy else .error)
      else s.st

/-- `ERR` over any step (R29): set by a `START` with `KCNT != 16`, cleared by a `START` with `KCNT = 16` and by
reset, and otherwise kept; it stays 1 exactly when `ST = ERROR`. -/
def Obligations.ErrorFieldTransitions : Prop :=
  ∀ s t : State, step s = .next t →
    (t.err =
      if resetAsserted s then .none
      else if s.st ≠ .busy ∧ s.port.head? = some 0x2000#16 then
        (if s.kcnt = 16#5 then .none else .invalidKeyLength)
      else s.err) ∧
    ((s.err = .invalidKeyLength ↔ s.st = .error) → (t.err = .invalidKeyLength ↔ t.st = .error))

/-- `KCNT` over any step (R21): zero after reset and `START`, one more and at most 17 after `KPUSH`, and otherwise
kept. -/
def Obligations.KeyCountTransitions : Prop :=
  ∀ s t : State, step s = .next t →
    t.kcnt.toNat =
      if resetAsserted s then 0
      else if s.st = .busy then s.kcnt.toNat
      else match s.port.head? with
        | some w =>
          if w = 0x2000#16 then 0
          else if w.extractLsb' 8 8 = 0x10#8 then min (s.kcnt.toNat + 1) 17
          else s.kcnt.toNat
        | none => s.kcnt.toNat

/-- `IDX` over any step (R26): zero after reset and any `START`, one more after a sequencer step, and otherwise
kept. A sequencer step is taken at 0..43 only, the one at 43 sets `ST` to `DONE`, and 44 is never passed. -/
def Obligations.WordIndexTransitions : Prop :=
  ∀ s t : State, step s = .next t →
    (t.idx =
      if resetAsserted s then 0#6
      else if s.st = .busy then s.idx + 1#6
      else if s.port.head? = some 0x2000#16 then 0#6
      else s.idx) ∧
    (resetAsserted s = false → s.st = .busy →
      s.idx.toNat ≤ 43 ∧ (s.idx = 43#6 → t.idx = 44#6 ∧ t.st = .done)) ∧
    (s.idx.toNat ≤ 44 → t.idx.toNat ≤ 44)

/-- Who writes the stores (R20, R22): `K` only by `KPUSH`, `W` only by sequencer steps, and a written flag is
cleared only by `START` (and reset, not considered here). -/
def Obligations.OnlyTheirWritersChangeTheStores : Prop :=
  ∀ s t : State, resetAsserted s = false → step s = .next t →
    (t.k ≠ s.k → s.st ≠ .busy ∧ ∃ b rest, s.port = kpushWord b :: rest) ∧
    (t.w ≠ s.w → s.st = .busy) ∧
    (∀ i : Fin 44, s.wv[i] = true → t.wv[i] = false →
      s.st ≠ .busy ∧ ∃ rest, s.port = startWord :: rest)

/-! ### The host commands -/

/-- `KPUSH b` (R181): the byte stored while `KCNT < 16`, the saturating count, the response, and that `ST`, `ERR`, `W`,
`WV`, `IDX` are unchanged. It is accepted whenever the block is not `BUSY`, and held while it is. -/
def Obligations.KpushStoresTheByteAndCounts : Prop :=
  (∀ (b : Byte) (s : State), ∃ t, exec (.kpush b) s = .next t ∧
    (∀ n : Fin 16, t.k[n] = if n.val = s.kcnt.toNat then b else s.k[n]) ∧
    t.kcnt.toNat = min (s.kcnt.toNat + 1) 17 ∧
    t.responses = s.responses ++ [.ok 0#128] ∧
    t.w = s.w ∧ t.wv = s.wv ∧ t.idx = s.idx ∧ t.st = s.st ∧ t.err = s.err) ∧
  (∀ (b : Byte) (s : State) (rest : List CommandWord), resetAsserted s = false → s.st ≠ .busy →
    s.port = kpushWord b :: rest →
    step s = exec (.kpush b) { s with port := rest, resetIn := s.resetIn.drop 1 }) ∧
  (∀ (b : Byte) (s t : State) (rest : List CommandWord), resetAsserted s = false → s.st = .busy →
    s.port = kpushWord b :: rest → step s = .next t → t.port = s.port ∧ t.k = s.k ∧ t.kcnt = s.kcnt)

/-- `START` with 16 bytes pushed (R183): the flags, `IDX` and `KCNT` are cleared, `ERR` is cleared, the block is
`BUSY`, no response is given yet (R188), and `K` keeps its contents (R182). -/
def Obligations.StartWithSixteenBytesBegins : Prop :=
  ∀ s : State, s.kcnt = 16#5 → ∃ t, exec .start s = .next t ∧
    (∀ i : Fin 44, t.wv[i] = false) ∧ t.idx = 0#6 ∧ t.kcnt = 0#5 ∧ t.err = .none ∧ t.st = .busy ∧
    t.responses = s.responses ∧ t.k = s.k

/-- `START` with any other count raises `InvalidKeyLength` (R210, R212): no word is readable, the counters are zero,
the error is recorded and reported, and "`K` is not changed". -/
def Obligations.StartWithAnotherLengthRaises : Prop :=
  ∀ s : State, s.kcnt ≠ 16#5 → ∃ t, exec .start s = .next t ∧
    (∀ i : Fin 44, t.wv[i] = false) ∧ t.idx = 0#6 ∧ t.kcnt = 0#5 ∧
    t.err = .invalidKeyLength ∧ t.st = .error ∧
    t.responses = s.responses ++ [.error .invalidKeyLength] ∧ t.k = s.k

/-- The frame of `KPUSH` and `START` on what their own rules do not speak of (R56): the words themselves, `TEMP`, `P`,
and the host's side. That a word under a cleared flag and the hidden registers keep their values is this model's
reading (notes/assumptions/6.md and 5.md); nothing can observe it. -/
def Obligations.KpushAndStartLeaveTheRest : Prop :=
  ∀ (i : Instr) (s : State), ((∃ b, i = .kpush b) ∨ i = .start) →
    ∃ t, exec i s = .next t ∧
      t.w = s.w ∧ t.temp = s.temp ∧ t.p = s.p ∧ t.port = s.port ∧ t.resetIn = s.resetIn

/-- `RDW i` (R184): the range check, then the state check, then `W[i]` in bits[31:0], the rest zero. Nothing but the
response given changes. The word read is written, as R45 (c) has it while `DONE`. -/
def Obligations.RdwAnswersTheWord : Prop :=
  ∀ (s : State) (i : BitVec 8),
    (43 < i.toNat →
      exec (.rdw i) s = .next { s with responses := s.responses ++ [.refused .indexOutOfRange] }) ∧
    (i.toNat ≤ 43 → s.st ≠ .done →
      exec (.rdw i) s = .next { s with responses := s.responses ++ [.refused .notDone] }) ∧
    (∀ n : Fin 44, n.val = i.toNat → s.st = .done → s.wv[n] = true →
      ∃ d : BitVec 128, exec (.rdw i) s = .next { s with responses := s.responses ++ [.ok d] } ∧
        d.extractLsb' 0 32 = s.w[n] ∧ d.extractLsb' 32 96 = 0#96)

/-- `RDRK r` (R185): the range check, then the state check, then the four words of round key `r`, the first in the
top bits. Nothing but the response given changes. The words read are written, as R45 (c) has it while `DONE`. -/
def Obligations.RdrkAnswersTheRoundKey : Prop :=
  ∀ (s : State) (r : BitVec 8),
    (10 < r.toNat →
      exec (.rdrk r) s = .next { s with responses := s.responses ++ [.refused .indexOutOfRange] }) ∧
    (r.toNat ≤ 10 → s.st ≠ .done →
      exec (.rdrk r) s = .next { s with responses := s.responses ++ [.refused .notDone] }) ∧
    (∀ n : Fin 11, n.val = r.toNat → s.st = .done →
      (∀ m : Fin 4, s.wv[4 * n.val + m.val]'(by omega) = true) →
      ∃ d : BitVec 128, exec (.rdrk r) s = .next { s with responses := s.responses ++ [.ok d] } ∧
        ∀ m : Fin 4, d.extractLsb' (96 - 32 * m.val) 32 = s.w[4 * n.val + m.val]'(by omega))

/-- The data of `RDRK r` is the bytes `SB[16r]`..`SB[16r+15]` in order, byte 0 in bits[127:120] (R51, R53). -/
def Obligations.RoundKeyDataIsTheScheduleBytes : Prop :=
  ∀ (w : Vector Word 44) (r : Fin 11) (m : Fin 16),
    (roundKeyData (w[4 * r.val]'(by omega)) (w[4 * r.val + 1]'(by omega)) (w[4 * r.val + 2]'(by omega))
      (w[4 * r.val + 3]'(by omega))).extractLsb' (120 - 8 * m.val) 8 =
    scheduleByte w ⟨16 * r.val + m.val, by omega⟩

/-- `RDST` answers the status register in its layout (R27) and changes no state, in every state (R186). Like every
command it is held while `BUSY`, so a step never answers `ST = BUSY`. -/
def Obligations.RdstAnswersTheStatus : Prop :=
  (∀ s : State, ∃ d : BitVec 128,
    exec .rdst s = .next { s with responses := s.responses ++ [.ok d] } ∧
    (d.extractLsb' 0 2).toNat = (match s.st with | .idle => 0 | .busy => 1 | .done => 2 | .error => 3) ∧
    (d.extractLsb' 2 2).toNat = (match s.err with | .none => 0 | .invalidKeyLength => 1) ∧
    d.extractLsb' 4 5 = s.kcnt ∧
    d.extractLsb' 9 119 = 0#119) ∧
  (∀ (s t : State) (rest : List CommandWord), resetAsserted s = false → s.st = .busy →
    s.port = rdstWord :: rest → step s = .next t → t.port = s.port)

/-- No read has a side effect (R58): whatever `RDW`, `RDRK` or `RDST` answers, nothing changes but that the response
is given, and the same read repeated answers the same. -/
def Obligations.ReadsChangeNoState : Prop :=
  ∀ (i : Instr) (s t : State),
    ((∃ n, i = .rdw n) ∨ (∃ r, i = .rdrk r) ∨ i = .rdst) → exec i s = .next t →
    ∃ r : Response, t = { s with responses := s.responses ++ [r] } ∧
      exec i t = .next { s with responses := s.responses ++ [r, r] }

/-! ### The sequencer -/

/-- `KS_COPY` at any index of its pattern (R152), with its frame (R151). -/
def Obligations.KsCopyCopiesTheKeyWord : Prop :=
  ∀ (k : BitVec 2) (s : State), ∃ t, exec (.ksCopy k) s = .next t ∧
    (∀ (n : Fin 44) (m : Fin 4) (b : Fin 16), n.val = k.toNat → b.val = 4 * k.toNat + m.val →
      wordByte t.w[n] m = s.k[b] ∧ t.wv[n] = true) ∧
    SequencerFrame k.toNat s t ∧ t.temp = s.temp ∧ t.p = s.p

/-- `KS_G` for every round key, byte by byte: `W[i] <- W[i-4] XOR G(W[i-1], j)` (R153, R124), with its frame
(R151). The source words are written, as R45 (b) has it. -/
def Obligations.KsGMakesTheFirstWord : Prop :=
  ∀ (j : BitVec 4) (s : State) (_ : 1 ≤ j.toNat) (_ : j.toNat ≤ 10),
    s.wv[4 * j.toNat - 1] = true → s.wv[4 * j.toNat - 4] = true →
    ∃ t c, exec (.ksG j) s = .next t ∧ rcon j = some c ∧
      (let a := s.w[4 * j.toNat - 1]
       let p := s.w[4 * j.toNat - 4]
       let v := t.w[4 * j.toNat]
       wordByte v 0 = wordByte p 0 ^^^ (sbox (wordByte a 1) ^^^ c) ∧
       wordByte v 1 = wordByte p 1 ^^^ sbox (wordByte a 2) ∧
       wordByte v 2 = wordByte p 2 ^^^ sbox (wordByte a 3) ∧
       wordByte v 3 = wordByte p 3 ^^^ sbox (wordByte a 0) ∧
       v = p ^^^ t.temp) ∧
      t.wv[4 * j.toNat] = true ∧ SequencerFrame (4 * j.toNat) s t

/-- `KS_X` for every index of its pattern: `W[i] <- W[i-4] XOR W[i-1]`, with no rotation, substitution or round
constant (R154), and its frame (R151). -/
def Obligations.KsXMakesTheOtherWords : Prop :=
  ∀ (j : BitVec 4) (k : BitVec 2) (s : State) (_ : 1 ≤ j.toNat) (_ : j.toNat ≤ 10) (_ : k.toNat < 4),
    k ≠ 0#2 →
    s.wv[4 * j.toNat + k.toNat - 1] = true → s.wv[4 * j.toNat + k.toNat - 4] = true →
    ∃ t, exec (.ksX j k) s = .next t ∧
      t.w[4 * j.toNat + k.toNat] =
        s.w[4 * j.toNat + k.toNat - 4] ^^^ s.w[4 * j.toNat + k.toNat - 1] ∧
      t.wv[4 * j.toNat + k.toNat] = true ∧
      t.temp = s.w[4 * j.toNat + k.toNat - 1] ∧
      SequencerFrame (4 * j.toNat + k.toNat) s t

/-- What a derived step leaves in the hidden registers: `P` holds the word `S0` fetched, and the word written is
`XorWord(P, TEMP)` of `S4` (R125). That they keep these values after the step is this model's reading
(notes/assumptions/5.md). -/
def Obligations.DerivedStepsLoadThePipeline : Prop :=
  ∀ (i : Instr) (s t : State), resetAsserted s = false → s.st = .busy → decodeIndex s.idx = .ok i →
    (∀ k, i ≠ .ksCopy k) → step s = .next t →
    4 ≤ s.idx.toNat ∧ ∀ n m : Fin 44, n.val = s.idx.toNat → m.val + 4 = s.idx.toNat →
      t.p = s.w[m] ∧ t.w[n] = xorWord t.p t.temp

/-- A read of a word whose flag is clear is the fault `ReadUnwritten` (R22): the first source word of a derived
step, the second one, and a host read. -/
def Obligations.UnwrittenWordsAreFaults : Prop :=
  (∀ (j : BitVec 4) (k : BitVec 2) (s : State) (_ : 1 ≤ j.toNat) (_ : j.toNat ≤ 10) (_ : k.toNat < 4),
    k ≠ 0#2 → s.wv[4 * j.toNat + k.toNat - 1] = false →
    exec (.ksX j k) s = .fault (.readUnwritten (4 * j.toNat + k.toNat - 1))) ∧
  (∀ (j : BitVec 4) (s : State) (_ : 1 ≤ j.toNat) (_ : j.toNat ≤ 10),
    s.wv[4 * j.toNat - 1] = true → s.wv[4 * j.toNat - 4] = false →
    exec (.ksG j) s = .fault (.readUnwritten (4 * j.toNat - 4))) ∧
  (∀ (i : Fin 44) (s : State), s.st = .done → s.wv[i] = false →
    exec (.rdw (BitVec.ofNat 8 i.val)) s = .fault (.readUnwritten i.val))

/-- Every sequencer step writes exactly the word `W[IDX]`, sets its flag, and performs the common tail; nothing else
of the spec's state changes (R151), `K` in particular (R20). -/
def Obligations.SequencerStepWritesOneWord : Prop :=
  ∀ s t : State, resetAsserted s = false → s.st = .busy → step s = .next t →
    s.idx.toNat ≤ 43 ∧
    (∀ n : Fin 44, n.val = s.idx.toNat → t.wv[n] = true) ∧
    (∀ n : Fin 44, n.val ≠ s.idx.toNat → t.w[n] = s.w[n] ∧ t.wv[n] = s.wv[n]) ∧
    t.st = (if s.idx = 43#6 then .done else .busy) ∧ t.idx = s.idx + 1#6 ∧
    t.k = s.k ∧ t.kcnt = s.kcnt ∧ t.err = s.err

/-! ### The datapath functions -/

/-- `RotWord` is the rotation left by 8 bits; it moves each byte one position down, and four times it gives the
word back (R120). -/
def Obligations.RotWordRotatesLeftByOneByte : Prop :=
  ∀ w : Word, rotWord w = w.rotateLeft 8 ∧
    wordByte (rotWord w) 0 = wordByte w 1 ∧ wordByte (rotWord w) 1 = wordByte w 2 ∧
    wordByte (rotWord w) 2 = wordByte w 3 ∧ wordByte (rotWord w) 3 = wordByte w 0 ∧
    rotWord (rotWord (rotWord (rotWord w))) = w ∧ ∀ b : Byte, rotWord (packWord b b b b) = packWord b b b b

/-- `SubWord` substitutes each byte in its place, and commutes with `RotWord` (R121). -/
def Obligations.SubWordActsOnEachByte : Prop :=
  ∀ w : Word, (∀ m : Fin 4, wordByte (subWord w) m = sbox (wordByte w m)) ∧
    subWord (rotWord w) = rotWord (subWord w) ∧
    subWord 0x00000000#32 = 0x63636363#32 ∧ subWord 0xffffffff#32 = 0x16161616#32

/-- `RconXor` changes byte 0 only, by `RCON[j]`, for `1 <= j <= 10` (R122); outside that range the entry does not
exist (R34). -/
def Obligations.RconXorTouchesOnlyTheFirstByte : Prop :=
  ∀ (w : Word) (j : BitVec 4),
    (1 ≤ j.toNat → j.toNat ≤ 10 → ∃ v c, rconXor w j = some v ∧ rcon j = some c ∧
      wordByte v 0 = wordByte w 0 ^^^ c ∧ wordByte v 1 = wordByte w 1 ∧
      wordByte v 2 = wordByte w 2 ∧ wordByte v 3 = wordByte w 3) ∧
    (j.toNat = 0 ∨ 11 ≤ j.toNat → rconXor w j = none)

/-- The per-index transform `T` (R124): `G` exactly at the multiples of 4, and otherwise the word unmodified. -/
def Obligations.TransformAppliesGOnlyAtMultiplesOfFour : Prop :=
  ∀ (i : Nat) (t : Word), 4 ≤ i → i ≤ 43 →
    (i % 4 = 0 → ∃ v c, transformAt i t = some v ∧ rcon (BitVec.ofNat 4 (i / 4)) = some c ∧
      v = packWord (sbox (wordByte t 1) ^^^ c) (sbox (wordByte t 2)) (sbox (wordByte t 3)) (sbox (wordByte t 0))) ∧
    (i % 4 ≠ 0 → transformAt i t = some t)

/-- The S-box table is the one R112 defines: the inverse in GF(2^8), then the affine map. -/
def Obligations.SboxTableIsItsDefinition : Prop :=
  ∀ a : Byte, ∃ b : Byte, IsGfInverse a b ∧ sbox a = sboxAffine b

/-- The checks of R111 on the table: "the 256 values are all different", and "No entry equals its index and no entry
equals the complement of its index". -/
def Obligations.SboxTableChecks : Prop :=
  (∀ a b : Byte, sbox a = sbox b → a = b) ∧ (∀ a : Byte, sbox a ≠ a ∧ sbox a ≠ ~~~a)

/-- The Rcon entries are the successive powers of `x` (R123), and there are no others (R34). -/
def Obligations.RconEntriesDouble : Prop :=
  (List.range 10).map (fun n => rcon (BitVec.ofNat 4 (n + 1))) =
    [some 0x01, some 0x02, some 0x04, some 0x08, some 0x10, some 0x20, some 0x40, some 0x80, some 0x1b,
     some 0x36] ∧
  (∀ j : BitVec 4, 1 ≤ j.toNat → j.toNat ≤ 9 → rcon (j + 1#4) = (rcon j).map xtime) ∧
  (∀ j : BitVec 4, j.toNat = 0 ∨ 11 ≤ j.toNat → rcon j = none)

/-! ### Invariants, totality and progress -/

/-- The invariants of R45 hold in the state after reset (R40). -/
def Obligations.ResetStateMeetsTheInvariants : Prop := Inv State.reset

/-- Every step keeps the invariants (a) to (e) of R45, from every state that meets them. -/
def Obligations.EveryStepKeepsTheInvariants : Prop :=
  ∀ s t : State, Inv s → step s = .next t → Inv t

/-- "Nothing else can fail" (R211): under the invariants every step answers a next state, so `ReadUnwritten` and
`BadIndex` are unreachable (R45). -/
def Obligations.NoStepStopsUnderTheInvariants : Prop :=
  ∀ s : State, Inv s → ∃ t, step s = .next t

/-- An expansion in progress advances one index a step and is complete exactly when index 44 is reached (R155):
it cannot stall or end early. -/
def Obligations.ExpansionAdvancesToCompletion : Prop :=
  ∀ (s : State) (n : Nat), Inv s → s.st = .busy → s.idx.toNat + n ≤ 44 → QuietFor n s →
    ∃ t, runSteps n s = .next t ∧ Inv t ∧ t.idx.toNat = s.idx.toNat + n ∧
      (s.idx.toNat + n < 44 → t.st = .busy) ∧ (s.idx.toNat + n = 44 → t.st = .done)

/-! ### The expansion -/

/-- An accepted `START` followed by 44 sequencer steps reaches `DONE` with the expansion of the key (R160), whatever
the state before; the response comes with the last step, and held words stay (R188). -/
def Obligations.AcceptedStartComputesTheExpansion : Prop :=
  ∀ s : State, s.kcnt = 16#5 → QuietFor 44 s →
    ∃ s₀ t, exec .start s = .next s₀ ∧ runSteps 44 s₀ = .next t ∧
      t.st = .done ∧ t.idx = 44#6 ∧ t.err = .none ∧ t.kcnt = 0#5 ∧ (∀ i : Fin 44, t.wv[i] = true) ∧
      expand s.k = some t.w.toList ∧ IsExpansion s.k t.w ∧
      t.k = s.k ∧ t.port = s.port ∧ t.responses = s.responses ++ [.ok 0#128]

/-- The recurrence determines the schedule completely from the key (R46), and is the function `Expand` (R160). -/
def Obligations.ExpansionIsOneFunctionOfTheKey : Prop :=
  (∀ key : Vector Byte 16, ∃ w : Vector Word 44, IsExpansion key w) ∧
  (∀ (key : Vector Byte 16) (v w : Vector Word 44), IsExpansion key v → IsExpansion key w → v = w) ∧
  (∀ (key : Vector Byte 16) (w : Vector Word 44), IsExpansion key w ↔ expand key = some w.toList)

/-- "Identity property: round key 0 always equals the input key byte-for-byte" (R51). -/
def Obligations.RoundKeyZeroIsTheKey : Prop :=
  ∀ (key : Vector Byte 16) (w : Vector Word 44), IsExpansion key w →
    ∀ n : Fin 16, scheduleByte w ⟨n.val, by omega⟩ = key[n]

/-- The known-answer test of the source document (spec/95_test_vectors.md 1.1, R113), and the word the trace of
section 2 gives at index 4. -/
def Obligations.KnownAnswerTest : Prop :=
  ∀ w : Vector Word 44,
    IsExpansion #v[0x2b, 0x7e, 0x15, 0x16, 0x28, 0xae, 0xd2, 0xa6, 0xab, 0xf7, 0x15, 0x88, 0x09, 0xcf, 0x4f, 0x3c] w →
    roundKeyData w[40] w[41] w[42] w[43] = 0xd014f9a8c9ee2589e13f0cc8b6630ca6#128 ∧ w[4] = 0xa0fafe17#32

/-- The contract of `expand(key)` on 16 bytes, in terms of commands (R189): from any state not `BUSY` with
`KCNT = 0`, for every key. -/
def Obligations.ExpandScriptOfSixteenBytes : Prop :=
  ∀ (key : Vector Byte 16) (s : State) (rest : List CommandWord),
    s.st ≠ .busy → s.kcnt = 0#5 → s.port = expandScript key.toList ++ rest → QuietFor 61 s →
    ∃ t, runSteps 61 s = .next t ∧ t.st = .done ∧ t.err = .none ∧
      (∀ i : Fin 44, t.wv[i] = true) ∧ IsExpansion key t.w ∧ t.port = rest ∧
      t.responses = s.responses ++ List.replicate 17 (.ok 0#128)

/-- The contract on any other length (R189): `ERROR 1`, and no schedule is held. -/
def Obligations.ExpandScriptOfAnotherLength : Prop :=
  ∀ (key : List Byte) (s : State) (rest : List CommandWord),
    key.length ≠ 16 → s.st ≠ .busy → s.kcnt = 0#5 → s.port = expandScript key ++ rest →
    QuietFor (key.length + 1) s →
    ∃ t, runSteps (key.length + 1) s = .next t ∧ t.st = .error ∧ t.err = .invalidKeyLength ∧
      (∀ i : Fin 44, t.wv[i] = false) ∧ t.port = rest ∧
      t.responses = s.responses ++ List.replicate key.length (.ok 0#128) ++ [.error .invalidKeyLength]

/-! ### What cannot be learned -/

/-- What R40 calls unspecified is unobservable: states that differ only in words under a clear flag, key bytes not
yet pushed, `TEMP` and `P` answer alike and stay so. The values this model names for them at reset
(notes/assumptions/1.md) therefore reach no response. -/
def Obligations.UnspecifiedContentsAreUnobservable : Prop :=
  ∀ s t : State, SameObservable s t → outcomesRelated SameObservable (step s) (step t)

/-- Control is independent of data (R252): states that differ only in key bytes, schedule words and the data of
responses take steps of the same kind, and stay so. -/
def Obligations.ControlIsIndependentOfData : Prop :=
  ∀ s t : State, SameControl s t → outcomesRelated SameControl (step s) (step t)
end

