-- ==== Sys2Proof/Laws/Datapath.lean ====
section
/-! SUPPORT. Bytes of a word, and when the datapath functions have a value. -/

namespace Sys2Proof.Machine

/-! ### Packing (R52) -/

theorem wordByte_getLsbD (w : Word) (m : Fin 4) (i : Nat) :
    (wordByte w m).getLsbD i = (decide (i < 8) && w.getLsbD (24 - 8 * m.val + i)) := by
  simp [wordByte]

theorem packWord_getLsbD (b0 b1 b2 b3 : Byte) (i : Nat) :
    (packWord b0 b1 b2 b3).getLsbD i =
      if i < 8 then b3.getLsbD i
      else if i < 16 then b2.getLsbD (i - 8)
      else if i < 24 then b1.getLsbD (i - 16) else b0.getLsbD (i - 24) := by
  have h3 : (packWord b0 b1 b2 b3).getLsbD i =
      if i < 8 then b3.getLsbD i else (b0 ++ b1 ++ b2 : BitVec (8 + 8 + 8)).getLsbD (i - 8) :=
    BitVec.getLsbD_append
  have h2 : (b0 ++ b1 ++ b2 : BitVec (8 + 8 + 8)).getLsbD (i - 8) =
      if i - 8 < 8 then b2.getLsbD (i - 8) else (b0 ++ b1 : BitVec (8 + 8)).getLsbD (i - 8 - 8) :=
    BitVec.getLsbD_append
  have h1 : (b0 ++ b1 : BitVec (8 + 8)).getLsbD (i - 8 - 8) =
      if i - 8 - 8 < 8 then b1.getLsbD (i - 8 - 8) else b0.getLsbD (i - 8 - 8 - 8) :=
    BitVec.getLsbD_append
  rw [h3, h2, h1]
  simp only [Nat.sub_sub, Nat.reduceAdd]
  by_cases h8 : i < 8
  · simp only [if_pos h8]
  by_cases h16 : i < 16
  · simp only [if_neg h8, if_pos h16, if_pos (show i - 8 < 8 by omega)]
  by_cases h24 : i < 24
  · simp only [if_neg h8, if_neg h16, if_pos h24, if_neg (show ¬ i - 8 < 8 by omega),
      if_pos (show i - 16 < 8 by omega)]
  · simp only [if_neg h8, if_neg h16, if_neg h24, if_neg (show ¬ i - 8 < 8 by omega),
      if_neg (show ¬ i - 16 < 8 by omega)]

@[simp] theorem wordByte_packWord_zero (b0 b1 b2 b3 : Byte) : wordByte (packWord b0 b1 b2 b3) 0 = b0 := by
  apply BitVec.eq_of_getLsbD_eq
  intro i hi
  rw [wordByte_getLsbD, packWord_getLsbD, show 24 - 8 * (0 : Fin 4).val + i = 24 + i from rfl]
  simp only [if_neg (show ¬ 24 + i < 8 by omega), if_neg (show ¬ 24 + i < 16 by omega), if_neg (show ¬ 24 + i < 24 by omega), hi, decide_true, Bool.true_and, Nat.add_sub_cancel_left]

@[simp] theorem wordByte_packWord_one (b0 b1 b2 b3 : Byte) : wordByte (packWord b0 b1 b2 b3) 1 = b1 := by
  apply BitVec.eq_of_getLsbD_eq
  intro i hi
  rw [wordByte_getLsbD, packWord_getLsbD, show 24 - 8 * (1 : Fin 4).val + i = 16 + i from rfl]
  simp only [if_neg (show ¬ 16 + i < 8 by omega), if_neg (show ¬ 16 + i < 16 by omega), if_pos (show 16 + i < 24 by omega), hi, decide_true, Bool.true_and, Nat.add_sub_cancel_left]

@[simp] theorem wordByte_packWord_two (b0 b1 b2 b3 : Byte) : wordByte (packWord b0 b1 b2 b3) 2 = b2 := by
  apply BitVec.eq_of_getLsbD_eq
  intro i hi
  rw [wordByte_getLsbD, packWord_getLsbD, show 24 - 8 * (2 : Fin 4).val + i = 8 + i from rfl]
  simp only [if_neg (show ¬ 8 + i < 8 by omega), if_pos (show 8 + i < 16 by omega), hi, decide_true, Bool.true_and, Nat.add_sub_cancel_left]

@[simp] theorem wordByte_packWord_three (b0 b1 b2 b3 : Byte) : wordByte (packWord b0 b1 b2 b3) 3 = b3 := by
  apply BitVec.eq_of_getLsbD_eq
  intro i hi
  rw [wordByte_getLsbD, packWord_getLsbD, show 24 - 8 * (3 : Fin 4).val + i = 0 + i from rfl]
  simp only [Nat.zero_add, hi, if_true, decide_true, Bool.true_and]

theorem packWord_wordByte (w : Word) :
    packWord (wordByte w 0) (wordByte w 1) (wordByte w 2) (wordByte w 3) = w := by
  apply BitVec.eq_of_getLsbD_eq
  intro i hi
  simp only [wordByte_getLsbD, packWord_getLsbD]
  simp
  split
  · simp [*]
  split
  · rename_i h1 h2; simp [show i - 8 < 8 by omega, show 8 + (i-8) = i by omega]
  split
  · simp [show i - 16 < 8 by omega, show 16 + (i-16) = i by omega]
  · simp [show i - 24 < 8 by omega, show 24 + (i-24) = i by omega]

/-- Two words with the same four bytes are equal. -/
theorem word_ext {v w : Word} (h : ∀ m, wordByte v m = wordByte w m) : v = w := by
  rw [← packWord_wordByte v, ← packWord_wordByte w, h 0, h 1, h 2, h 3]

@[simp] theorem wordByte_xorWord (p t : Word) (m : Fin 4) :
    wordByte (xorWord p t) m = wordByte p m ^^^ wordByte t m := by
  apply BitVec.eq_of_getLsbD_eq
  intro i hi
  simp only [wordByte_getLsbD, xorWord, BitVec.getLsbD_xor, hi, decide_true, Bool.true_and]

/-! ### The round constant (R122, R123) -/

/-- `RCON` has exactly the entries 1..10 (R34, D19). -/
theorem rcon_isSome (j : BitVec 4) : (rcon j).isSome = derivedRoundKey j := by
  revert j; decide

theorem rconXor_eq_some {w v : Word} {j : BitVec 4} :
    rconXor w j = some v ↔ ∃ c, rcon j = some c ∧ v = w ^^^ packWord c 0#8 0#8 0#8 := by
  simp [rconXor, eq_comm]

theorem gWord_isSome (t : Word) (j : BitVec 4) : (gWord t j).isSome = derivedRoundKey j := by
  simp [gWord, rconXor, rcon_isSome]

end Sys2Proof.Machine
end

