-- ==== Sys2Proof/Laws/Encoding.lean ====
section
/-! SUPPORT. The fields of encoded operations. -/

namespace Sys2Proof

@[simp] theorem opField_commandWord (op : BitVec 4) (arg : BitVec 8) : opField (commandWord op arg) = op := by
  revert op arg; decide +kernel

@[simp] theorem rsvField_commandWord (op : BitVec 4) (arg : BitVec 8) : rsvField (commandWord op arg) = 0#4 := by
  revert op arg; decide +kernel

@[simp] theorem argField_commandWord (op : BitVec 4) (arg : BitVec 8) : argField (commandWord op arg) = arg := by
  revert op arg; decide +kernel

/-- A command word is its three fields (R80). -/
theorem commandWord_fields (w : CommandWord) (h : rsvField w = 0#4) : commandWord (opField w) (argField w) = w := by
  apply BitVec.eq_of_toNat_eq
  have hw := w.isLt
  have hr : w.toNat / 256 % 16 = 0 := by
    have := congrArg BitVec.toNat h
    simpa [rsvField, Nat.shiftRight_eq_div_pow] using this
  have h1 : (commandWord (opField w) (argField w)).toNat =
      (w.toNat / 4096 % 16) * 4096 + w.toNat % 256 := by
    have e : commandWord (opField w) (argField w) = ((opField w ++ 0#4 : BitVec (4 + 4)) ++ argField w : BitVec (4 + 4 + 8)) := rfl
    have ha := (argField w).isLt
    rw [e]
    erw [BitVec.toNat_append, BitVec.toNat_append]
    rw [← Nat.shiftLeft_add_eq_or_of_lt ha]
    simp [opField, argField, Nat.shiftRight_eq_div_pow, Nat.shiftLeft_eq]
    omega
  rw [h1]; omega

@[simp] theorem roundField_append (j : BitVec 4) (k : BitVec 2) : roundField (j ++ k) = j := by
  revert j k; decide

@[simp] theorem positionField_append (j : BitVec 4) (k : BitVec 2) : positionField (j ++ k) = k := by
  revert j k; decide

/-- An index is its two fields (R82). -/
theorem index_fields (i : Index) : roundField i ++ positionField i = i := by
  revert i; decide

/-- `IDX[5:2] = IDX / 4` (R142 (c)). -/
theorem roundField_toNat (i : Index) : (roundField i).toNat = i.toNat / 4 := by
  revert i; decide

/-- `IDX[1:0] = IDX mod 4` (R142 (c)). -/
theorem positionField_toNat (i : Index) : (positionField i).toNat = i.toNat % 4 := by
  revert i; decide

/-- The steps decoded from an index are those of R90, at the index their fields spell. -/
theorem decodeIndex_ok {i : Index} {x : Instr} (h : decodeIndex i = .ok x) :
    (∃ k, x = .ksCopy k ∧ i = 0#4 ++ k) ∨
    (∃ j, x = .ksG j ∧ derivedRoundKey j = true ∧ i = j ++ 0#2) ∨
    (∃ j k, x = .ksX j k ∧ derivedRoundKey j = true ∧ k ≠ 0#2 ∧ i = j ++ k) := by
  have hf := index_fields i
  unfold decodeIndex at h
  split at h
  · rename_i h0
    cases h
    exact .inl ⟨_, rfl, by rw [← h0]; exact hf.symm⟩
  · rename_i h0
    have hpos : 1 ≤ (roundField i).toNat := by
      have : (roundField i).toNat ≠ 0 := fun e => h0 (BitVec.eq_of_toNat_eq e)
      omega
    split at h
    · rename_i h10
      have hd : derivedRoundKey (roundField i) = true := by simp [derivedRoundKey, hpos, h10]
      split at h
      · rename_i hk
        cases h
        exact .inr (.inl ⟨_, rfl, hd, by rw [← hk]; exact hf.symm⟩)
      · rename_i hk
        cases h
        exact .inr (.inr ⟨_, _, rfl, hd, hk, hf.symm⟩)
    · split at h <;> cases h

/-- A command word decodes to one of the five host commands, by its opcode (R83). -/
theorem decodeCommand_ok {w : CommandWord} {x : Instr} (h : decodeCommand w = .ok x) :
    rsvField w = 0#4 ∧
    ((opField w = 0x1#4 ∧ x = .kpush (argField w)) ∨ (opField w = 0x2#4 ∧ argField w = 0#8 ∧ x = .start) ∨
     (opField w = 0x3#4 ∧ x = .rdw (argField w)) ∨ (opField w = 0x4#4 ∧ x = .rdrk (argField w)) ∨
     (opField w = 0x5#4 ∧ argField w = 0#8 ∧ x = .rdst)) := by
  unfold decodeCommand at h
  split at h
  · cases h
  split at h
  · cases h
  rename_i hr
  refine ⟨by simpa using hr, ?_⟩
  unfold decodeOpcode withoutArgument at h
  repeat' split at h
  all_goals first
    | (cases h; simp_all)
    | (cases h)

/-- No host command is decoded from an index and no step kind from a command word. -/
theorem decodeCommand_rejects {w : CommandWord} {r : DecodeReject} (h : decodeCommand w = .error r) :
    r = .reservedOpcode ∨ r = .nonZeroReserved := by
  unfold decodeCommand decodeOpcode withoutArgument at h
  repeat' split at h
  all_goals cases h
  all_goals simp

end Sys2Proof
end

