-- ==== Sys2Proof/Laws/State.lean ====
section
/-! SUPPORT. One lemma per field per update of the state, each true by `rfl`, so that no later proof unfolds a
record update. -/

namespace Sys2Proof.Machine

variable (s : State)

/-! ### `clearSchedule` -/

@[simp] theorem clearSchedule_k : (clearSchedule s).k = s.k := rfl
@[simp] theorem clearSchedule_kcnt : (clearSchedule s).kcnt = s.kcnt := rfl
@[simp] theorem clearSchedule_w : (clearSchedule s).w = s.w := rfl
@[simp] theorem clearSchedule_wv : (clearSchedule s).wv = Vector.replicate 44 false := rfl
@[simp] theorem clearSchedule_idx : (clearSchedule s).idx = 0#6 := rfl
@[simp] theorem clearSchedule_st : (clearSchedule s).st = s.st := rfl
@[simp] theorem clearSchedule_err : (clearSchedule s).err = s.err := rfl
@[simp] theorem clearSchedule_temp : (clearSchedule s).temp = s.temp := rfl
@[simp] theorem clearSchedule_p : (clearSchedule s).p = s.p := rfl
@[simp] theorem clearSchedule_port : (clearSchedule s).port = s.port := rfl
@[simp] theorem clearSchedule_resetIn : (clearSchedule s).resetIn = s.resetIn := rfl
@[simp] theorem clearSchedule_responses : (clearSchedule s).responses = s.responses := rfl

/-! ### `pushKeyByte` -/

@[simp] theorem pushKeyByte_k (b : Byte) : (pushKeyByte b s).k = (if h : s.kcnt.toNat < 16 then s.k.set s.kcnt.toNat b else s.k) := rfl
@[simp] theorem pushKeyByte_kcnt (b : Byte) : (pushKeyByte b s).kcnt = nextKcnt s.kcnt := rfl
@[simp] theorem pushKeyByte_w (b : Byte) : (pushKeyByte b s).w = s.w := rfl
@[simp] theorem pushKeyByte_wv (b : Byte) : (pushKeyByte b s).wv = s.wv := rfl
@[simp] theorem pushKeyByte_idx (b : Byte) : (pushKeyByte b s).idx = s.idx := rfl
@[simp] theorem pushKeyByte_st (b : Byte) : (pushKeyByte b s).st = s.st := rfl
@[simp] theorem pushKeyByte_err (b : Byte) : (pushKeyByte b s).err = s.err := rfl
@[simp] theorem pushKeyByte_temp (b : Byte) : (pushKeyByte b s).temp = s.temp := rfl
@[simp] theorem pushKeyByte_p (b : Byte) : (pushKeyByte b s).p = s.p := rfl
@[simp] theorem pushKeyByte_port (b : Byte) : (pushKeyByte b s).port = s.port := rfl
@[simp] theorem pushKeyByte_resetIn (b : Byte) : (pushKeyByte b s).resetIn = s.resetIn := rfl
@[simp] theorem pushKeyByte_responses (b : Byte) : (pushKeyByte b s).responses = s.responses := rfl

/-! ### `respond` -/

@[simp] theorem respond_k (r : Response) : (respond r s).k = s.k := rfl
@[simp] theorem respond_kcnt (r : Response) : (respond r s).kcnt = s.kcnt := rfl
@[simp] theorem respond_w (r : Response) : (respond r s).w = s.w := rfl
@[simp] theorem respond_wv (r : Response) : (respond r s).wv = s.wv := rfl
@[simp] theorem respond_idx (r : Response) : (respond r s).idx = s.idx := rfl
@[simp] theorem respond_st (r : Response) : (respond r s).st = s.st := rfl
@[simp] theorem respond_err (r : Response) : (respond r s).err = s.err := rfl
@[simp] theorem respond_temp (r : Response) : (respond r s).temp = s.temp := rfl
@[simp] theorem respond_p (r : Response) : (respond r s).p = s.p := rfl
@[simp] theorem respond_port (r : Response) : (respond r s).port = s.port := rfl
@[simp] theorem respond_resetIn (r : Response) : (respond r s).resetIn = s.resetIn := rfl
@[simp] theorem respond_responses (r : Response) : (respond r s).responses = s.responses ++ [r] := rfl

/-! ### `refuse` -/

@[simp] theorem refuse_k (r : RefuseReason) : (refuse r s).k = s.k := rfl
@[simp] theorem refuse_kcnt (r : RefuseReason) : (refuse r s).kcnt = s.kcnt := rfl
@[simp] theorem refuse_w (r : RefuseReason) : (refuse r s).w = s.w := rfl
@[simp] theorem refuse_wv (r : RefuseReason) : (refuse r s).wv = s.wv := rfl
@[simp] theorem refuse_idx (r : RefuseReason) : (refuse r s).idx = s.idx := rfl
@[simp] theorem refuse_st (r : RefuseReason) : (refuse r s).st = s.st := rfl
@[simp] theorem refuse_err (r : RefuseReason) : (refuse r s).err = s.err := rfl
@[simp] theorem refuse_temp (r : RefuseReason) : (refuse r s).temp = s.temp := rfl
@[simp] theorem refuse_p (r : RefuseReason) : (refuse r s).p = s.p := rfl
@[simp] theorem refuse_port (r : RefuseReason) : (refuse r s).port = s.port := rfl
@[simp] theorem refuse_resetIn (r : RefuseReason) : (refuse r s).resetIn = s.resetIn := rfl
@[simp] theorem refuse_responses (r : RefuseReason) : (refuse r s).responses = s.responses ++ [.refused r] := rfl

/-! ### `raiseInvalidKeyLength` -/

@[simp] theorem raiseInvalidKeyLength_k : (raiseInvalidKeyLength s).k = s.k := rfl
@[simp] theorem raiseInvalidKeyLength_kcnt : (raiseInvalidKeyLength s).kcnt = 0#5 := rfl
@[simp] theorem raiseInvalidKeyLength_w : (raiseInvalidKeyLength s).w = s.w := rfl
@[simp] theorem raiseInvalidKeyLength_wv : (raiseInvalidKeyLength s).wv = Vector.replicate 44 false := rfl
@[simp] theorem raiseInvalidKeyLength_idx : (raiseInvalidKeyLength s).idx = 0#6 := rfl
@[simp] theorem raiseInvalidKeyLength_st : (raiseInvalidKeyLength s).st = .error := rfl
@[simp] theorem raiseInvalidKeyLength_err : (raiseInvalidKeyLength s).err = .invalidKeyLength := rfl
@[simp] theorem raiseInvalidKeyLength_temp : (raiseInvalidKeyLength s).temp = s.temp := rfl
@[simp] theorem raiseInvalidKeyLength_p : (raiseInvalidKeyLength s).p = s.p := rfl
@[simp] theorem raiseInvalidKeyLength_port : (raiseInvalidKeyLength s).port = s.port := rfl
@[simp] theorem raiseInvalidKeyLength_resetIn : (raiseInvalidKeyLength s).resetIn = s.resetIn := rfl
@[simp] theorem raiseInvalidKeyLength_responses : (raiseInvalidKeyLength s).responses = s.responses ++ [.error .invalidKeyLength] := rfl

/-! ### `beginExpansion` -/

@[simp] theorem beginExpansion_k : (beginExpansion s).k = s.k := rfl
@[simp] theorem beginExpansion_kcnt : (beginExpansion s).kcnt = 0#5 := rfl
@[simp] theorem beginExpansion_w : (beginExpansion s).w = s.w := rfl
@[simp] theorem beginExpansion_wv : (beginExpansion s).wv = s.wv := rfl
@[simp] theorem beginExpansion_idx : (beginExpansion s).idx = s.idx := rfl
@[simp] theorem beginExpansion_st : (beginExpansion s).st = .busy := rfl
@[simp] theorem beginExpansion_err : (beginExpansion s).err = .none := rfl
@[simp] theorem beginExpansion_temp : (beginExpansion s).temp = s.temp := rfl
@[simp] theorem beginExpansion_p : (beginExpansion s).p = s.p := rfl
@[simp] theorem beginExpansion_port : (beginExpansion s).port = s.port := rfl
@[simp] theorem beginExpansion_resetIn : (beginExpansion s).resetIn = s.resetIn := rfl
@[simp] theorem beginExpansion_responses : (beginExpansion s).responses = s.responses := rfl

/-! ### `rotateTemp` -/

@[simp] theorem rotateTemp_k : (rotateTemp s).k = s.k := rfl
@[simp] theorem rotateTemp_kcnt : (rotateTemp s).kcnt = s.kcnt := rfl
@[simp] theorem rotateTemp_w : (rotateTemp s).w = s.w := rfl
@[simp] theorem rotateTemp_wv : (rotateTemp s).wv = s.wv := rfl
@[simp] theorem rotateTemp_idx : (rotateTemp s).idx = s.idx := rfl
@[simp] theorem rotateTemp_st : (rotateTemp s).st = s.st := rfl
@[simp] theorem rotateTemp_err : (rotateTemp s).err = s.err := rfl
@[simp] theorem rotateTemp_temp : (rotateTemp s).temp = rotWord s.temp := rfl
@[simp] theorem rotateTemp_p : (rotateTemp s).p = s.p := rfl
@[simp] theorem rotateTemp_port : (rotateTemp s).port = s.port := rfl
@[simp] theorem rotateTemp_resetIn : (rotateTemp s).resetIn = s.resetIn := rfl
@[simp] theorem rotateTemp_responses : (rotateTemp s).responses = s.responses := rfl

/-! ### `substituteTemp` -/

@[simp] theorem substituteTemp_k : (substituteTemp s).k = s.k := rfl
@[simp] theorem substituteTemp_kcnt : (substituteTemp s).kcnt = s.kcnt := rfl
@[simp] theorem substituteTemp_w : (substituteTemp s).w = s.w := rfl
@[simp] theorem substituteTemp_wv : (substituteTemp s).wv = s.wv := rfl
@[simp] theorem substituteTemp_idx : (substituteTemp s).idx = s.idx := rfl
@[simp] theorem substituteTemp_st : (substituteTemp s).st = s.st := rfl
@[simp] theorem substituteTemp_err : (substituteTemp s).err = s.err := rfl
@[simp] theorem substituteTemp_temp : (substituteTemp s).temp = subWord s.temp := rfl
@[simp] theorem substituteTemp_p : (substituteTemp s).p = s.p := rfl
@[simp] theorem substituteTemp_port : (substituteTemp s).port = s.port := rfl
@[simp] theorem substituteTemp_resetIn : (substituteTemp s).resetIn = s.resetIn := rfl
@[simp] theorem substituteTemp_responses : (substituteTemp s).responses = s.responses := rfl

/-! ### `finishStep` -/

@[simp] theorem finishStep_k : (finishStep s).k = s.k := rfl
@[simp] theorem finishStep_kcnt : (finishStep s).kcnt = s.kcnt := rfl
@[simp] theorem finishStep_w : (finishStep s).w = s.w := rfl
@[simp] theorem finishStep_wv : (finishStep s).wv = s.wv := rfl
@[simp] theorem finishStep_idx : (finishStep s).idx = nextIndex s.idx := rfl
@[simp] theorem finishStep_st : (finishStep s).st = (if s.idx = 43#6 then .done else s.st) := rfl
@[simp] theorem finishStep_err : (finishStep s).err = s.err := rfl
@[simp] theorem finishStep_temp : (finishStep s).temp = s.temp := rfl
@[simp] theorem finishStep_p : (finishStep s).p = s.p := rfl
@[simp] theorem finishStep_port : (finishStep s).port = s.port := rfl
@[simp] theorem finishStep_resetIn : (finishStep s).resetIn = s.resetIn := rfl
@[simp] theorem finishStep_responses : (finishStep s).responses = (if s.idx = 43#6 then s.responses ++ [.ok 0#128] else s.responses) := rfl

/-! ### `applyReset` -/

@[simp] theorem applyReset_k : (applyReset s).k = Vector.replicate 16 0#8 := rfl
@[simp] theorem applyReset_kcnt : (applyReset s).kcnt = 0#5 := rfl
@[simp] theorem applyReset_w : (applyReset s).w = Vector.replicate 44 0#32 := rfl
@[simp] theorem applyReset_wv : (applyReset s).wv = Vector.replicate 44 false := rfl
@[simp] theorem applyReset_idx : (applyReset s).idx = 0#6 := rfl
@[simp] theorem applyReset_st : (applyReset s).st = .idle := rfl
@[simp] theorem applyReset_err : (applyReset s).err = .none := rfl
@[simp] theorem applyReset_temp : (applyReset s).temp = 0#32 := rfl
@[simp] theorem applyReset_p : (applyReset s).p = 0#32 := rfl
@[simp] theorem applyReset_port : (applyReset s).port = s.port.drop 1 := rfl
@[simp] theorem applyReset_resetIn : (applyReset s).resetIn = s.resetIn.drop 1 := rfl
@[simp] theorem applyReset_responses : (applyReset s).responses = s.responses := rfl

/-! ### `consume` -/

@[simp] theorem consume_k : (consume s).k = s.k := rfl
@[simp] theorem consume_kcnt : (consume s).kcnt = s.kcnt := rfl
@[simp] theorem consume_w : (consume s).w = s.w := rfl
@[simp] theorem consume_wv : (consume s).wv = s.wv := rfl
@[simp] theorem consume_idx : (consume s).idx = s.idx := rfl
@[simp] theorem consume_st : (consume s).st = s.st := rfl
@[simp] theorem consume_err : (consume s).err = s.err := rfl
@[simp] theorem consume_temp : (consume s).temp = s.temp := rfl
@[simp] theorem consume_p : (consume s).p = s.p := rfl
@[simp] theorem consume_port : (consume s).port = (if s.st = .busy then s.port else s.port.drop 1) := rfl
@[simp] theorem consume_resetIn : (consume s).resetIn = s.resetIn.drop 1 := rfl
@[simp] theorem consume_responses : (consume s).responses = s.responses := rfl

/-! ### `placeCommand` -/

@[simp] theorem placeCommand_k (c : CommandWord) : (placeCommand c s).k = s.k := rfl
@[simp] theorem placeCommand_kcnt (c : CommandWord) : (placeCommand c s).kcnt = s.kcnt := rfl
@[simp] theorem placeCommand_w (c : CommandWord) : (placeCommand c s).w = s.w := rfl
@[simp] theorem placeCommand_wv (c : CommandWord) : (placeCommand c s).wv = s.wv := rfl
@[simp] theorem placeCommand_idx (c : CommandWord) : (placeCommand c s).idx = s.idx := rfl
@[simp] theorem placeCommand_st (c : CommandWord) : (placeCommand c s).st = (if s.st = .busy then .idle else s.st) := rfl
@[simp] theorem placeCommand_err (c : CommandWord) : (placeCommand c s).err = s.err := rfl
@[simp] theorem placeCommand_temp (c : CommandWord) : (placeCommand c s).temp = s.temp := rfl
@[simp] theorem placeCommand_p (c : CommandWord) : (placeCommand c s).p = s.p := rfl
@[simp] theorem placeCommand_port (c : CommandWord) : (placeCommand c s).port = c :: s.port := rfl
@[simp] theorem placeCommand_resetIn (c : CommandWord) : (placeCommand c s).resetIn = false :: s.resetIn := rfl
@[simp] theorem placeCommand_responses (c : CommandWord) : (placeCommand c s).responses = s.responses := rfl

/-! ### `placeIndex` -/

@[simp] theorem placeIndex_k (i : Index) : (placeIndex i s).k = s.k := rfl
@[simp] theorem placeIndex_kcnt (i : Index) : (placeIndex i s).kcnt = s.kcnt := rfl
@[simp] theorem placeIndex_w (i : Index) : (placeIndex i s).w = s.w := rfl
@[simp] theorem placeIndex_wv (i : Index) : (placeIndex i s).wv = flagsBelow i := rfl
@[simp] theorem placeIndex_idx (i : Index) : (placeIndex i s).idx = i := rfl
@[simp] theorem placeIndex_st (i : Index) : (placeIndex i s).st = .busy := rfl
@[simp] theorem placeIndex_err (i : Index) : (placeIndex i s).err = s.err := rfl
@[simp] theorem placeIndex_temp (i : Index) : (placeIndex i s).temp = s.temp := rfl
@[simp] theorem placeIndex_p (i : Index) : (placeIndex i s).p = s.p := rfl
@[simp] theorem placeIndex_port (i : Index) : (placeIndex i s).port = s.port := rfl
@[simp] theorem placeIndex_resetIn (i : Index) : (placeIndex i s).resetIn = false :: s.resetIn := rfl
@[simp] theorem placeIndex_responses (i : Index) : (placeIndex i s).responses = s.responses := rfl

end Sys2Proof.Machine
end

