-- ==== Sys2Proof/Laws/Ops.lean ====
section
/-! SUPPORT. What each shared operation can do, said once: when it succeeds, and what its result is then. -/

namespace Sys2Proof.Machine

variable {s t : State} {i : Nat} {v : Word}

/-! ### `Except` and outcomes -/

@[simp] theorem outcomeOf_ok (s : State) : outcomeOf (.ok s) = .next s := rfl
@[simp] theorem outcomeOf_error (f : Fault) : outcomeOf (.error f) = .fault f := rfl

theorem outcomeOf_next {x : Except Fault State} : outcomeOf x = .next t ↔ x = .ok t := by
  cases x <;> simp

theorem outcomeOf_not_refused {x : Except Fault State} {r : Refusal} : outcomeOf x ≠ .refused r := by
  cases x <;> simp

@[simp] theorem ok_bind {α β : Type} (a : α) (f : α → Except Fault β) : (Except.ok a >>= f) = f a := rfl
@[simp] theorem error_bind {α β : Type} (e : Fault) (f : α → Except Fault β) :
    (Except.error e >>= f) = .error e := rfl
@[simp] theorem pure_eq_ok {α : Type} (a : α) : (pure a : Except Fault α) = .ok a := rfl

/-- A sequence of two operations succeeds exactly when both do. -/
theorem bind_ok {α β : Type} {x : Except Fault α} {f : α → Except Fault β} {b : β} :
    (x >>= f) = .ok b ↔ ∃ a, x = .ok a ∧ f a = .ok b := by
  cases x <;> simp

/-! ### The schedule store (R22) -/

theorem readSchedule_ok : readSchedule i s = .ok v ↔ ∃ h : i < 44, s.wv[i] = true ∧ s.w[i] = v := by
  unfold readSchedule
  split
  · split <;> simp_all
  · simp_all

/-- A written word reads as it stands. -/
theorem readSchedule_written (h : i < 44) (hw : s.wv[i] = true) : readSchedule i s = .ok s.w[i] := by
  simp [readSchedule, h, hw]

theorem readSchedule_unwritten (h : i < 44) (hw : s.wv[i] = false) :
    readSchedule i s = .error (.readUnwritten i) := by
  simp [readSchedule, h, hw]

theorem writeSchedule_ok :
    writeSchedule i v s = .ok t ↔ ∃ h : i < 44, t = { s with w := s.w.set i v, wv := s.wv.set i true } := by
  unfold writeSchedule
  split <;> simp_all [eq_comm]

theorem writeSchedule_inRange (h : i < 44) :
    writeSchedule i v s = .ok { s with w := s.w.set i v, wv := s.wv.set i true } := by
  simp [writeSchedule, h]

/-- The packed data of a round key all of whose words are written (R53). -/
theorem readRoundKey_written (r : Nat) (h : 4 * r + 3 < 44)
    (hw : ∀ m (hm : m < 4), s.wv[4 * r + m] = true) :
    readRoundKey r s = .ok (roundKeyData s.w[4 * r] s.w[4 * r + 1] s.w[4 * r + 2] s.w[4 * r + 3]) := by
  have h0 := hw 0 (by decide)
  simp only [Nat.add_zero] at h0
  simp [readRoundKey, readSchedule_written (i := 4 * r) (by omega) h0,
    readSchedule_written (i := 4 * r + 1) (by omega) (hw 1 (by decide)),
    readSchedule_written (i := 4 * r + 2) (by omega) (hw 2 (by decide)),
    readSchedule_written (i := 4 * r + 3) (by omega) (hw 3 (by decide))]

/-! ### The stages of a sequencer step (R125) -/

theorem fetchSources_ok {i : Index} : fetchSources i s = .ok t ↔
    ∃ a b, readSchedule (prevIndex i).toNat s = .ok a ∧ readSchedule (backIndex i).toNat s = .ok b ∧
      t = { s with temp := a, p := b } := by
  simp only [fetchSources, bind_ok, pure_eq_ok, Except.ok.injEq]
  constructor
  · rintro ⟨a, ha, b, hb, rfl⟩
    exact ⟨a, b, ha, hb, rfl⟩
  · rintro ⟨a, b, ha, hb, rfl⟩
    exact ⟨a, ha, b, hb, rfl⟩

theorem injectRcon_ok {j : BitVec 4} :
    injectRcon j s = .ok t ↔ ∃ v, rconXor s.temp j = some v ∧ t = { s with temp := v } := by
  unfold injectRcon
  cases rconXor s.temp j <;> simp [eq_comm]

theorem combineInto_ok {i : Index} : combineInto i s = .ok t ↔ ∃ h : i.toNat < 44,
    t = { s with w := s.w.set i.toNat (xorWord s.p s.temp), wv := s.wv.set i.toNat true } :=
  writeSchedule_ok

/-! ### Indices (R82, R142) -/

theorem stepIndex_toNat (j : BitVec 4) (k : BitVec 2) : (stepIndex j k).toNat = 4 * j.toNat + k.toNat := by
  revert j k
  decide

theorem prevIndex_toNat {i : Index} (h : 1 ≤ i.toNat) : (prevIndex i).toNat = i.toNat - 1 := by
  unfold prevIndex; bv_omega

theorem backIndex_toNat {i : Index} (h : 4 ≤ i.toNat) : (backIndex i).toNat = i.toNat - 4 := by
  unfold backIndex; bv_omega

theorem nextIndex_toNat {i : Index} (h : i.toNat < 63) : (nextIndex i).toNat = i.toNat + 1 := by
  unfold nextIndex; bv_omega

/-! ### The key byte counter (R181) -/

theorem nextKcnt_toNat (c : BitVec 5) : (nextKcnt c).toNat = min (c.toNat + 1) 17 := by
  have := c.isLt
  simp [nextKcnt, Config.kcntMax]

/-- The saturating count never passes 17 (R21). -/
theorem nextKcnt_le (c : BitVec 5) : (nextKcnt c).toNat ≤ 17 := by
  rw [nextKcnt_toNat]; omega

/-! ### The flags below an index (R45 (b)) -/

theorem flagsBelow_getElem (i : Index) (n : Nat) (h : n < 44) :
    (flagsBelow i)[n] = decide (n < i.toNat) := by
  simp [flagsBelow]

end Sys2Proof.Machine
end

