-- ==== Sys2Proof/Laws/Exec.lean ====
section
/-! SUPPORT. What each meaning can do: if it answers a next state, which one. -/

namespace Sys2Proof.Machine

variable {s t : State}

/-! ### The index an operation spells -/

theorem derivedRoundKey_iff {j : BitVec 4} : derivedRoundKey j = true ↔ 1 ≤ j.toNat ∧ j.toNat ≤ 10 := by
  simp [derivedRoundKey]

theorem stepIndex_copy (k : BitVec 2) : (stepIndex 0#4 k).toNat = k.toNat := by
  simp [stepIndex_toNat]

/-- A derived word has index 4..43 (R142 (b)). -/
theorem stepIndex_derived {j : BitVec 4} (k : BitVec 2) (h : derivedRoundKey j = true) :
    4 ≤ (stepIndex j k).toNat ∧ (stepIndex j k).toNat < 44 := by
  have := k.isLt
  rw [derivedRoundKey_iff] at h
  rw [stepIndex_toNat]
  omega

/-! ### The sequencer's step kinds -/

/-- The state a sequencer step leaves that wrote `v` into `W[n]` with `TEMP` and `P` at the given values. -/
def afterWrite (n : Nat) (h : n < 44) (v temp p : Word) (s : State) : State :=
  finishStep { s with w := s.w.set n v, wv := s.wv.set n true, temp := temp, p := p }

theorem execKsCopy_eq (k : BitVec 2) (s : State) :
    execKsCopy k s = .next (afterWrite k.toNat (Nat.lt_trans k.isLt (by decide)) (keyWord s.k k) s.temp s.p s) := by
  have h : k.toNat < 44 := Nat.lt_trans k.isLt (by decide)
  simp only [execKsCopy, stepIndex_copy, writeSchedule_inRange h, ok_bind, pure_eq_ok, outcomeOf_ok, afterWrite]

/-- A G-step that completes read two written words and combined `P` with `G(TEMP, j)` (R153). -/
theorem execKsG_next {j : BitVec 4} (h : execKsG j s = .next t) :
    ∃ a b v, ∃ hi : (stepIndex j 0#2).toNat < 44,
      readSchedule (prevIndex (stepIndex j 0#2)).toNat s = .ok a ∧
      readSchedule (backIndex (stepIndex j 0#2)).toNat s = .ok b ∧
      gWord a j = some v ∧ t = afterWrite (stepIndex j 0#2).toNat hi (xorWord b v) v b s := by
  simp only [execKsG, outcomeOf_next, bind_ok, fetchSources_ok, injectRcon_ok, combineInto_ok, pure_eq_ok,
    Except.ok.injEq] at h
  obtain ⟨_, ⟨a, b, ha, hb, rfl⟩, _, ⟨v, hv, rfl⟩, _, ⟨hi, rfl⟩, rfl⟩ := h
  exact ⟨a, b, v, hi, ha, hb, hv, rfl⟩

/-- An X-step that completes read two written words and combined them (R154). -/
theorem execKsX_next {j : BitVec 4} {k : BitVec 2} (h : execKsX j k s = .next t) :
    ∃ a b, ∃ hi : (stepIndex j k).toNat < 44,
      readSchedule (prevIndex (stepIndex j k)).toNat s = .ok a ∧
      readSchedule (backIndex (stepIndex j k)).toNat s = .ok b ∧
      t = afterWrite (stepIndex j k).toNat hi (xorWord b a) a b s := by
  simp only [execKsX, outcomeOf_next, bind_ok, fetchSources_ok, combineInto_ok, pure_eq_ok,
    Except.ok.injEq] at h
  obtain ⟨_, ⟨a, b, ha, hb, rfl⟩, _, ⟨hi, rfl⟩, rfl⟩ := h
  exact ⟨a, b, hi, ha, hb, rfl⟩

/-- Whatever a decoded step kind does, it writes the one word its index spells and performs the common tail. -/
theorem decodedStep_next {i : Index} {x : Instr} (hd : decodeIndex i = .ok x) (h : exec x s = .next t) :
    ∃ v temp p, ∃ hi : i.toNat < 44, t = afterWrite i.toNat hi v temp p s := by
  rcases decodeIndex_ok hd with ⟨k, rfl, rfl⟩ | ⟨j, rfl, -, rfl⟩ | ⟨j, k, rfl, -, -, rfl⟩
  · rw [exec, execKsCopy_eq] at h
    injection h with h
    have e : (0#4 ++ k : Index).toNat = k.toNat := stepIndex_copy k
    refine ⟨keyWord s.k k, s.temp, s.p, by rw [e]; exact Nat.lt_trans k.isLt (by decide), ?_⟩
    simp only [e]
    exact h.symm
  · obtain ⟨_, _, _, hi, -, -, -, e⟩ := execKsG_next h
    exact ⟨_, _, _, hi, e⟩
  · obtain ⟨_, _, hi, -, -, e⟩ := execKsX_next h
    exact ⟨_, _, _, hi, e⟩

/-! ### The host commands -/

/-- The commands that only read. -/
def isRead (x : Instr) : Prop := (∃ n, x = .rdw n) ∨ (∃ r, x = .rdrk r) ∨ x = .rdst

/-- A read that answers a next state has only given a response (R58). -/
theorem read_next {x : Instr} (hx : isRead x) (h : exec x s = .next t) : ∃ r, t = respond r s := by
  rcases hx with ⟨n, rfl⟩ | ⟨n, rfl⟩ | rfl
  · simp only [exec, execRdw] at h
    repeat' split at h
    · exact ⟨_, by injection h with h; exact h.symm⟩
    · exact ⟨_, by injection h with h; exact h.symm⟩
    simp only [outcomeOf_next, bind_ok, pure_eq_ok, Except.ok.injEq] at h
    obtain ⟨_, -, rfl⟩ := h
    exact ⟨_, rfl⟩
  · simp only [exec, execRdrk] at h
    repeat' split at h
    · exact ⟨_, by injection h with h; exact h.symm⟩
    · exact ⟨_, by injection h with h; exact h.symm⟩
    simp only [outcomeOf_next, bind_ok, pure_eq_ok, Except.ok.injEq] at h
    obtain ⟨_, -, rfl⟩ := h
    exact ⟨_, rfl⟩
  · injection h with h
    exact ⟨_, h.symm⟩

/-- A host command that answers a next state has pushed a byte, begun an expansion, entered the error state, or
is a read. -/
theorem hostCommand_next {w : CommandWord} {x : Instr} (hd : decodeCommand w = .ok x)
    (h : exec x s = .next t) :
    (∃ b, x = .kpush b ∧ t = respond (.ok 0#128) (pushKeyByte b s)) ∨
    (x = .start ∧ s.kcnt = 16#5 ∧ t = beginExpansion (clearSchedule s)) ∨
    (x = .start ∧ s.kcnt ≠ 16#5 ∧ t = raiseInvalidKeyLength (clearSchedule s)) ∨
    (isRead x ∧ ∃ r, t = respond r s) := by
  obtain ⟨-, hx⟩ := decodeCommand_ok hd
  have read (hr : isRead x) := (⟨hr, read_next hr h⟩ : isRead x ∧ ∃ r, t = respond r s)
  rcases hx with ⟨-, rfl⟩ | ⟨-, -, rfl⟩ | ⟨-, rfl⟩ | ⟨-, rfl⟩ | ⟨-, -, rfl⟩
  · injection h with h
    exact .inl ⟨_, rfl, h.symm⟩
  · simp only [exec, execStart] at h
    split at h <;> injection h with h
    · exact .inr (.inl ⟨rfl, ‹_›, h.symm⟩)
    · exact .inr (.inr (.inl ⟨rfl, ‹_›, h.symm⟩))
  · exact .inr (.inr (.inr (read (.inl ⟨_, rfl⟩))))
  · exact .inr (.inr (.inr (read (.inr (.inl ⟨_, rfl⟩)))))
  · exact .inr (.inr (.inr (read (.inr (.inr rfl)))))

/-! ### No meaning is missing -/

/-- No meaning answers a refusal of the model. -/
theorem exec_not_refused (x : Instr) (s : State) (r : Refusal) : exec x s ≠ .refused r := by
  cases x <;> simp only [exec, execKpush, execStart, execRdw, execRdrk, execRdst, execKsCopy, execKsG, execKsX]
  all_goals try split
  all_goals try split
  all_goals first
    | exact outcomeOf_not_refused
    | exact fun h => nomatch h

end Sys2Proof.Machine
end

