-- ==== Sys2Proof/Laws/Expand.lean ====
section
/-! SUPPORT. The recurrence of R46 as a check that can be evaluated on a given schedule. -/

namespace Sys2Proof.Machine

/-- `XorWord` undoes itself: from `W[i]` and `W[i-4]` the term between them is recovered (R140). -/
theorem xorWord_cancel (p v : Word) : v = xorWord p (xorWord p v) := by
  simp [xorWord]

/-- It is enough that `T(i, W[i-1])` is `W[i-4] XOR W[i]` at every derived index. -/
theorem isExpansion_of_differences {key : Vector Byte 16} {w : Vector Word 44}
    (hk : ∀ j : BitVec 2, w[j.toNat]'(Nat.lt_trans j.isLt (by decide)) = keyWord key j)
    (hd : ∀ n : Fin 40, transformAt (n.val + 4) w[n.val + 3] = some (xorWord w[n.val] w[n.val + 4])) :
    IsExpansion key w := by
  refine ⟨hk, fun i h h4 => ?_⟩
  obtain ⟨n, rfl⟩ : ∃ n, i = n + 4 := ⟨i - 4, by omega⟩
  exact ⟨_, hd ⟨n, by omega⟩, xorWord_cancel _ _⟩

end Sys2Proof.Machine
end

