-- ==== Sys2Proof/Laws/PerInstr.lean ====
section
/-! SUPPORT. Per-instruction laws about the operations as syntax. `TablePattern`: the encoding of a well-formed
operation fits the match and mask of its row of spec/opcode_table.json and that row's constraint. -/

namespace Sys2Proof.Laws.TablePattern

/-- The bits `e` carry under `mask` are `bits` (a `CMD16` row). -/
def commandFits (mask bits : CommandWord) : Encoded → Prop
  | .command w => w &&& mask = bits
  | .index _ => False

/-- The bits `e` carry under `mask` are `bits` (an `IDX6` row), at an index `IDX` may hold during an expansion. -/
def indexFits (mask bits : Index) : Encoded → Prop
  | .command _ => False
  | .index i => i &&& mask = bits ∧ i.toNat ≤ 43

/-- The row of each operation. -/
def row : Instr → Encoded → Prop
  | .kpush _ => commandFits 0xff00#16 0x1000#16
  | .start => commandFits 0xffff#16 0x2000#16
  | .rdw _ => commandFits 0xff00#16 0x3000#16
  | .rdrk _ => commandFits 0xff00#16 0x4000#16
  | .rdst => commandFits 0xffff#16 0x5000#16
  | .ksCopy _ => indexFits 0x3c#6 0x00#6
  | .ksG _ => indexFits 0x03#6 0x00#6
  | .ksX _ k => indexFits 0x03#6 (0#4 ++ k)

def Statement (i : Instr) : Prop := i.wellFormed = true → row i (encode i)

theorem kpush (b : Byte) : Statement (.kpush b) := by
  intro _; revert b; simp only [row, encode, commandFits]; decide
theorem start : Statement .start := fun _ => rfl
theorem rdw (i : BitVec 8) : Statement (.rdw i) := by
  intro _; revert i; simp only [row, encode, commandFits]; decide
theorem rdrk (r : BitVec 8) : Statement (.rdrk r) := by
  intro _; revert r; simp only [row, encode, commandFits]; decide
theorem rdst : Statement .rdst := fun _ => rfl
theorem ksCopy (k : BitVec 2) : Statement (.ksCopy k) := by
  intro _; revert k; simp only [row, encode, indexFits]; decide
theorem ksG (j : BitVec 4) : Statement (.ksG j) := by
  revert j; simp only [Statement, row, encode, indexFits]; decide
theorem ksX (j : BitVec 4) (k : BitVec 2) : Statement (.ksX j k) := by
  revert j k; simp only [Statement, row, encode, indexFits]; decide

end Sys2Proof.Laws.TablePattern
end

