-- ==== Sys2Proof/Laws/Step.lean ====
section
/-! SUPPORT. What one step can do, said once. -/

namespace Sys2Proof.Machine

variable {s t : State}

theorem fetch_busy (h : s.st = .busy) : fetch s = some (.index s.idx) := by simp [fetch, h]

theorem fetch_word {w : CommandWord} {rest : List CommandWord} (h : s.st ≠ .busy) (hp : s.port = w :: rest) :
    fetch s = some (.command w) := by simp [fetch, h, hp]

theorem fetch_empty (h : s.st ≠ .busy) (hp : s.port = []) : fetch s = none := by simp [fetch, h, hp]

/-- A step that answers a next state is a reset, a wait, a sequencer step, a host command, or the refusal of a
word that selects no command. -/
theorem step_cases (h : step s = .next t) :
    (resetAsserted s = true ∧ t = applyReset s) ∨
    (resetAsserted s = false ∧ s.st ≠ .busy ∧ s.port = [] ∧ t = consume s) ∨
    (resetAsserted s = false ∧ s.st = .busy ∧ ∃ x, decodeIndex s.idx = .ok x ∧ exec x (consume s) = .next t) ∨
    (resetAsserted s = false ∧ s.st ≠ .busy ∧ ∃ w rest x, s.port = w :: rest ∧ decodeCommand w = .ok x ∧
      exec x (consume s) = .next t) ∨
    (resetAsserted s = false ∧ s.st ≠ .busy ∧ ∃ w rest r, s.port = w :: rest ∧
      (decodeCommand w = .error .reservedOpcode ∧ r = .reservedOpcode ∨
       decodeCommand w = .error .nonZeroReserved ∧ r = .nonZeroReserved) ∧ t = refuse r (consume s)) := by
  unfold step at h
  split at h
  · injection h with h
    exact .inl ⟨‹_›, h.symm⟩
  · rename_i hr
    simp only [Bool.not_eq_true] at hr
    refine .inr ?_
    by_cases hb : s.st = .busy
    · rw [fetch_busy hb] at h
      refine .inr (.inl ⟨hr, hb, ?_⟩)
      simp only [decode] at h
      cases hd : decodeIndex s.idx with
      | ok x => rw [hd] at h; exact ⟨x, rfl, h⟩
      | error r =>
        rw [hd] at h
        unfold decodeIndex at hd
        repeat' split at hd
        all_goals cases hd
        all_goals cases h
    · cases hp : s.port with
      | nil =>
        rw [fetch_empty hb hp] at h
        injection h with h
        exact .inl ⟨hr, hb, rfl, h.symm⟩
      | cons w rest =>
        rw [fetch_word hb hp] at h
        simp only [decode] at h
        refine .inr (.inr ?_)
        cases hd : decodeCommand w with
        | ok x => rw [hd] at h; exact .inl ⟨hr, hb, w, rest, x, rfl, hd, h⟩
        | error r =>
          rw [hd] at h
          refine .inr ⟨hr, hb, w, rest, ?_⟩
          rcases decodeCommand_rejects hd with rfl | rfl
          · injection h with h
            exact ⟨_, rfl, .inl ⟨hd, rfl⟩, h.symm⟩
          · injection h with h
            exact ⟨_, rfl, .inr ⟨hd, rfl⟩, h.symm⟩

theorem consume_busy (hb : s.st = .busy) : consume s = { s with resetIn := s.resetIn.drop 1 } := by
  simp [consume, hb]

theorem consume_word {w : CommandWord} {rest : List CommandWord} (hb : s.st ≠ .busy) (hp : s.port = w :: rest) :
    consume s = { s with port := rest, resetIn := s.resetIn.drop 1 } := by
  simp [consume, hb, hp]

/-- A step of a `BUSY` block that is not reset writes the word at `IDX` and performs the common tail (R150, R151). -/
theorem busyStep_next (hr : resetAsserted s = false) (hb : s.st = .busy) (h : step s = .next t) :
    ∃ v temp p, ∃ hi : s.idx.toNat < 44,
      t = afterWrite s.idx.toNat hi v temp p { s with resetIn := s.resetIn.drop 1 } := by
  rcases step_cases h with ⟨h1, -⟩ | ⟨-, h2, -⟩ | ⟨-, -, x, hd, he⟩ | ⟨-, h2, -⟩ | ⟨-, h2, -⟩
  · simp [hr] at h1
  · exact absurd hb h2
  · rw [consume_busy hb] at he
    exact decodedStep_next hd he
  · exact absurd hb h2
  · exact absurd hb h2

theorem kpush_decodes {w : CommandWord} (h : opField w = 0x1#4 ∧ rsvField w = 0#4) :
    decodeCommand w = .ok (.kpush (argField w)) := by
  simp [decodeCommand, h.1, h.2, legalOpcode, decodeOpcode]

/-- A step of a block that is neither `BUSY` nor reset waits, pushes a key byte, starts, or only answers. -/
theorem hostStep_next (hr : resetAsserted s = false) (hb : s.st ≠ .busy) (h : step s = .next t) :
    (s.port = [] ∧ t = consume s) ∨ ∃ w rest, s.port = w :: rest ∧
      ((∃ b, w = commandWord 0x1#4 b ∧ t = respond (.ok 0#128) (pushKeyByte b (consume s))) ∨
       (w = 0x2000#16 ∧ s.kcnt = 16#5 ∧ t = beginExpansion (clearSchedule (consume s))) ∨
       (w = 0x2000#16 ∧ s.kcnt ≠ 16#5 ∧ t = raiseInvalidKeyLength (clearSchedule (consume s))) ∨
       (w ≠ 0x2000#16 ∧ ¬ (opField w = 0x1#4 ∧ rsvField w = 0#4) ∧ ∃ r, t = respond r (consume s))) := by
  have hs : decodeCommand 0x2000#16 = .ok .start := by decide
  rcases step_cases h with ⟨h1, -⟩ | ⟨-, -, hp, rfl⟩ | ⟨-, h2, -⟩ | ⟨-, -, w, rest, x, hp, hd, he⟩ |
    ⟨-, -, w, rest, r, hp, hd, rfl⟩
  · simp [hr] at h1
  · exact .inl ⟨hp, rfl⟩
  · exact absurd h2 hb
  · refine .inr ⟨w, rest, hp, ?_⟩
    obtain ⟨hrsv, hop⟩ := decodeCommand_ok hd
    have hf := commandWord_fields w hrsv
    rcases hostCommand_next hd he with ⟨b, rfl, rfl⟩ | ⟨rfl, hc, rfl⟩ | ⟨rfl, hc, rfl⟩ | ⟨hx, r, rfl⟩
    · obtain ⟨h1, rfl⟩ : opField w = 0x1#4 ∧ b = argField w := by simpa using hop
      exact .inl ⟨_, by rw [← h1]; exact hf.symm, rfl⟩
    · obtain ⟨h1, h2⟩ : opField w = 0x2#4 ∧ argField w = 0#8 := by simpa using hop
      exact .inr (.inl ⟨by rw [← hf, h1, h2]; rfl, hc, rfl⟩)
    · obtain ⟨h1, h2⟩ : opField w = 0x2#4 ∧ argField w = 0#8 := by simpa using hop
      exact .inr (.inr (.inl ⟨by rw [← hf, h1, h2]; rfl, hc, rfl⟩))
    · refine .inr (.inr (.inr ⟨?_, fun h => ?_, r, rfl⟩))
      · rintro rfl
        rw [hs] at hd
        cases hd
        simp [isRead] at hx
      · rw [kpush_decodes h] at hd
        cases hd
        simp [isRead] at hx
  · refine .inr ⟨w, rest, hp, .inr (.inr (.inr ⟨?_, fun h => ?_, _, rfl⟩))⟩
    · rintro rfl
      simp [hs] at hd
    · simp [kpush_decodes h] at hd

/-- The model never refuses an instruction. -/
theorem step_not_refused (s : State) (r : Refusal) : step s ≠ .refused r := by
  unfold step
  split
  · exact fun h => nomatch h
  · split
    · exact fun h => nomatch h
    · split
      · exact exec_not_refused _ _ _
      · unfold reject
        split <;> exact fun h => nomatch h

end Sys2Proof.Machine
end

