-- ==== Sys2Proof/Tests/Slice0.lean ====
section
/-! SUPPORT. Tests. Expected values come from the spec: the words of R83 and the tables of
spec/95_test_vectors.md, named at each test. A `witness_` theorem shows states and operands that meet the
hypotheses of an obligation, clause by clause at the ends of its ranges. -/

namespace Sys2Proof.Tests

open Sys2Proof Sys2Proof.Machine

/-! ### Small states -/

/-- The next state, where there is one. -/
def nextOf : Host.Outcome State Fault Refusal → Option State
  | .next s => some s
  | .fault _ => none
  | .refused _ => none

/-- The reset state with words of the host's script presented. -/
def presenting (ws : List CommandWord) (s : State) : State := { s with port := ws }

/-- A block in the middle of an expansion, at an index. -/
def busyAt (i : Index) : State := { placeIndex i State.reset with resetIn := [] }

/-- A block that holds a full schedule of zero words. -/
def doneState : State := { busyAt 44#6 with st := .done }

/-- A word of the schedule set and flagged. -/
def withWord (n : Fin 44) (v : Word) (s : State) : State :=
  { s with w := s.w.set n.val v, wv := s.wv.set n.val true }

/-- As many key bytes pushed as the counter says. -/
def pushed (c : BitVec 5) : State := { State.reset with kcnt := c }

/-- Reset asserted at the coming step. -/
def inReset (s : State) : State := { s with resetIn := [true] }

theorem test_parameters : Config.nwords = Config.wordsPerRoundKey * (Config.nr + 1) ∧
    Config.nrk = Config.nr + 1 ∧ Config.schedBytes = Config.nwords * Config.nk ∧
    Config.keyBytes = 4 * Config.nk ∧ Config.sboxSize = 256 ∧ Config.nrcon = Config.nr := by decide

/-! ### WellFormed: an ill-formed term for each check -/

theorem test_illFormed_rdw : (Instr.rdw 44#8).wellFormed = false := by decide
theorem test_illFormed_rdrk : (Instr.rdrk 11#8).wellFormed = false := by decide
theorem test_illFormed_ksG_low : (Instr.ksG 0#4).wellFormed = false := by decide
theorem test_illFormed_ksG_high : (Instr.ksG 11#4).wellFormed = false := by decide
theorem test_illFormed_ksX_low : (Instr.ksX 0#4 1#2).wellFormed = false := by decide
theorem test_illFormed_ksX_high : (Instr.ksX 11#4 1#2).wellFormed = false := by decide
theorem test_illFormed_ksX_position : (Instr.ksX 3#4 0#2).wellFormed = false := by decide

/-! ### Decoding: words written out from R83 and patterns from R90 (spec/95_test_vectors.md, sections 6 and 7) -/

theorem test_decode_kpush : decodeCommand 0b0001_0000_00101011#16 = .ok (.kpush 0x2b#8) := by decide
theorem test_decode_start : decodeCommand 0b0010_0000_00000000#16 = .ok .start := by decide
theorem test_decode_rdw : decodeCommand 0b0011_0000_00101011#16 = .ok (.rdw 43#8) := by decide
theorem test_decode_rdrk : decodeCommand 0b0100_0000_00001010#16 = .ok (.rdrk 10#8) := by decide
theorem test_decode_rdst : decodeCommand 0b0101_0000_00000000#16 = .ok .rdst := by decide
theorem test_decode_copy : decodeIndex 0b0000_11#6 = .ok (.ksCopy 3#2) := by decide
theorem test_decode_g : decodeIndex 0b0001_00#6 = .ok (.ksG 1#4) := by decide
theorem test_decode_g_last : decodeIndex 0b1010_00#6 = .ok (.ksG 10#4) := by decide
theorem test_decode_x : decodeIndex 0b0001_11#6 = .ok (.ksX 1#4 3#2) := by decide
theorem test_decode_x_last : decodeIndex 0b1010_11#6 = .ok (.ksX 10#4 3#2) := by decide
theorem test_decode_complete : decodeIndex 0b1011_00#6 = .error .expansionComplete := by decide
theorem test_decode_badIndex : decodeIndex 0b1011_01#6 = .error .badIndex := by decide
/-- Program P5 rows 1 to 6 and 12. -/
theorem test_decode_rejects : [0x0000#16, 0x6000#16, 0xf0ff#16].map decodeCommand =
      List.replicate 3 (.error .reservedOpcode) ∧
    [0x1100#16, 0x2001#16, 0x5080#16, 0x312c#16].map decodeCommand =
      List.replicate 4 (.error .nonZeroReserved) := by decide
theorem test_tableWord : decodeTableWord 16 0x1000 = some (.kpush 0#8) ∧ decodeTableWord 8 4 = some (.ksG 1#4) ∧
    decodeTableWord 8 5 = some (.ksX 1#4 1#2) ∧ decodeTableWord 8 64 = none ∧ decodeTableWord 16 0x6000 = none := by
  decide

/-! ### Datapath functions (spec/95_test_vectors.md, section 5) -/

theorem test_sbox : ([0x00, 0x01, 0x09, 0x0f, 0x10, 0x3c, 0x4f, 0x53, 0x63, 0x7f, 0x80, 0x9a, 0xc9, 0xcf, 0xfe, 0xff] :
      List Byte).map sbox =
    [0x63, 0x7c, 0x01, 0x76, 0xca, 0xeb, 0x84, 0xed, 0xfb, 0xd2, 0xcd, 0xb8, 0xdd, 0x8a, 0xbb, 0x16] := by decide
theorem test_rotWord : rotWord 0x09cf4f3c#32 = 0xcf4f3c09#32 ∧ rotWord 0x80000001#32 = 0x00000180#32 ∧
    (0x09cf4f3c#32).rotateLeft 8 = 0xcf4f3c09#32 := by decide
theorem test_subWord : subWord 0xcf4f3c09#32 = 0x8a84eb01#32 ∧ subWord 0x538063fe#32 = 0xedcdfbbb#32 := by decide
theorem test_rconXor : rconXor 0x8a84eb01#32 1#4 = some 0x8b84eb01#32 ∧
    rconXor 0x5da515d2#32 9#4 = some 0x46a515d2#32 ∧ rconXor 0xffffffff#32 10#4 = some 0xc9ffffff#32 := by decide
theorem test_gWord : gWord 0x09cf4f3c#32 1#4 = some 0x8b84eb01#32 ∧
    gWord 0x575c006e#32 10#4 = some 0x7c639f5b#32 ∧ gWord 0x0c0d0e0f#32 1#4 = some 0xd6ab76fe#32 := by decide
theorem test_transform : transformAt 4 0x09cf4f3c#32 = some 0x8b84eb01#32 ∧
    transformAt 5 0xa0fafe17#32 = some 0xa0fafe17#32 := by decide
theorem test_xorWord : xorWord 0x28aed2a6#32 0xa0fafe17#32 = 0x88542cb1#32 := by decide

/-! ### Whole schedules (spec/95_test_vectors.md, sections 2 to 4) -/

/-- The key and schedule of spec/95_test_vectors.md, section 2. -/
def knownKey : Vector Byte 16 :=
  #v[0x2b, 0x7e, 0x15, 0x16, 0x28, 0xae, 0xd2, 0xa6, 0xab, 0xf7, 0x15, 0x88, 0x09, 0xcf, 0x4f, 0x3c]

def knownWords0 : Vector Word 22 :=
  #v[0x2b7e1516, 0x28aed2a6, 0xabf71588, 0x09cf4f3c, 0xa0fafe17, 0x88542cb1, 0x23a33939, 0x2a6c7605,
    0xf2c295f2, 0x7a96b943, 0x5935807a, 0x7359f67f, 0x3d80477d, 0x4716fe3e, 0x1e237e44, 0x6d7a883b,
    0xef44a541, 0xa8525b7f, 0xb671253b, 0xdb0bad00, 0xd4d1c6f8, 0x7c839d87]

def knownWords1 : Vector Word 22 :=
  #v[0xcaf2b8bc, 0x11f915bc, 0x6d88a37a, 0x110b3efd, 0xdbf98641, 0xca0093fd, 0x4e54f70e, 0x5f5fc9f3,
    0x84a64fb2, 0x4ea6dc4f, 0xead27321, 0xb58dbad2, 0x312bf560, 0x7f8d292f, 0xac7766f3, 0x19fadc21,
    0x28d12941, 0x575c006e, 0xd014f9a8, 0xc9ee2589, 0xe13f0cc8, 0xb6630ca6]

def knownSchedule : Vector Word 44 := knownWords0 ++ knownWords1

theorem test_known_schedule : IsExpansion knownKey knownSchedule :=
  isExpansion_of_differences (by decide +kernel) (by decide +kernel)

/-- The key and schedule of spec/95_test_vectors.md, section 3. -/
def zeroKey : Vector Byte 16 :=
  #v[0x00, 0x00, 0x00, 0x00, 0x00, 0x00, 0x00, 0x00, 0x00, 0x00, 0x00, 0x00, 0x00, 0x00, 0x00, 0x00]

def zeroWords0 : Vector Word 22 :=
  #v[0x00000000, 0x00000000, 0x00000000, 0x00000000, 0x62636363, 0x62636363, 0x62636363, 0x62636363,
    0x9b9898c9, 0xf9fbfbaa, 0x9b9898c9, 0xf9fbfbaa, 0x90973450, 0x696ccffa, 0xf2f45733, 0x0b0fac99,
    0xee06da7b, 0x876a1581, 0x759e42b2, 0x7e91ee2b, 0x7f2e2b88, 0xf8443e09]

def zeroWords1 : Vector Word 22 :=
  #v[0x8dda7cbb, 0xf34b9290, 0xec614b85, 0x1425758c, 0x99ff0937, 0x6ab49ba7, 0x21751787, 0x3550620b,
    0xacaf6b3c, 0xc61bf09b, 0x0ef90333, 0x3ba96138, 0x97060a04, 0x511dfa9f, 0xb1d4d8e2, 0x8a7db9da,
    0x1d7bb3de, 0x4c664941, 0xb4ef5bcb, 0x3e92e211, 0x23e951cf, 0x6f8f188e]

def zeroSchedule : Vector Word 44 := zeroWords0 ++ zeroWords1

theorem test_zero_schedule : IsExpansion zeroKey zeroSchedule :=
  isExpansion_of_differences (by decide +kernel) (by decide +kernel)

/-- The key and schedule of spec/95_test_vectors.md, section 4 (first table). -/
def countingKey : Vector Byte 16 :=
  #v[0x00, 0x01, 0x02, 0x03, 0x04, 0x05, 0x06, 0x07, 0x08, 0x09, 0x0a, 0x0b, 0x0c, 0x0d, 0x0e, 0x0f]

def countingWords0 : Vector Word 22 :=
  #v[0x00010203, 0x04050607, 0x08090a0b, 0x0c0d0e0f, 0xd6aa74fd, 0xd2af72fa, 0xdaa678f1, 0xd6ab76fe,
    0xb692cf0b, 0x643dbdf1, 0xbe9bc500, 0x6830b3fe, 0xb6ff744e, 0xd2c2c9bf, 0x6c590cbf, 0x0469bf41,
    0x47f7f7bc, 0x95353e03, 0xf96c32bc, 0xfd058dfd, 0x3caaa3e8, 0xa99f9deb]

def countingWords1 : Vector Word 22 :=
  #v[0x50f3af57, 0xadf622aa, 0x5e390f7d, 0xf7a69296, 0xa7553dc1, 0x0aa31f6b, 0x14f9701a, 0xe35fe28c,
    0x440adf4d, 0x4ea9c026, 0x47438735, 0xa41c65b9, 0xe016baf4, 0xaebf7ad2, 0x549932d1, 0xf0855768,
    0x1093ed9c, 0xbe2c974e, 0x13111d7f, 0xe3944a17, 0xf307a78b, 0x4d2b30c5]

def countingSchedule : Vector Word 44 := countingWords0 ++ countingWords1

theorem test_counting_schedule : IsExpansion countingKey countingSchedule :=
  isExpansion_of_differences (by decide +kernel) (by decide +kernel)

/-- The key and schedule of spec/95_test_vectors.md, section 4 (second table). -/
def onesKey : Vector Byte 16 :=
  #v[0xff, 0xff, 0xff, 0xff, 0xff, 0xff, 0xff, 0xff, 0xff, 0xff, 0xff, 0xff, 0xff, 0xff, 0xff, 0xff]

def onesWords0 : Vector Word 22 :=
  #v[0xffffffff, 0xffffffff, 0xffffffff, 0xffffffff, 0xe8e9e9e9, 0x17161616, 0xe8e9e9e9, 0x17161616,
    0xadaeae19, 0xbab8b80f, 0x525151e6, 0x454747f0, 0x090e2277, 0xb3b69a78, 0xe1e7cb9e, 0xa4a08c6e,
    0xe16abd3e, 0x52dc2746, 0xb33becd8, 0x179b60b6, 0xe5baf3ce, 0xb766d488]

def onesWords1 : Vector Word 22 :=
  #v[0x045d3850, 0x13c658e6, 0x71d07db3, 0xc6b6a93b, 0xc2eb916b, 0xd12dc98d, 0xe90d208d, 0x2fbb89b6,
    0xed5018dd, 0x3c7dd150, 0x96337366, 0xb988fad0, 0x54d8e20d, 0x68a5335d, 0x8bf03f23, 0x3278c5f3,
    0x66a027fe, 0x0e0514a3, 0xd60a3588, 0xe472f07b, 0x82d2d785, 0x8cd7c326]

def onesSchedule : Vector Word 44 := onesWords0 ++ onesWords1

theorem test_ones_schedule : IsExpansion onesKey onesSchedule :=
  isExpansion_of_differences (by decide +kernel) (by decide +kernel)

/-! ### One step of each operation -/

/-- P1 row 2. -/
theorem test_step_kpush : (nextOf (step (presenting [0x102b#16] State.reset))).map
    (fun t => (t.k[0], t.kcnt, t.responses, t.port)) = some (0x2b#8, 1#5, [.ok 0#128], []) := by decide
/-- P3 row 17 and section 6: 16 to 17, the byte not stored. -/
theorem test_step_kpush_seventeenth : (nextOf (exec (.kpush 0xff#8) (pushed 16#5))).map
    (fun t => (t.k[15], t.kcnt)) = some (0x00#8, 17#5) := by decide
/-- R183: after 16 bytes the block is `BUSY` and the response is still to come. -/
theorem test_step_start : (nextOf (step (presenting [0x2000#16] (pushed 16#5)))).map
    (fun t => (t.st, t.idx, t.kcnt, t.responses)) = some (.busy, 0#6, 0#5, []) := by decide
/-- P2 row 16, and P4 row 25: the held schedule is gone. -/
theorem test_step_start_short : (nextOf (step (presenting [0x2000#16] { doneState with kcnt := 4#5 }))).map
    (fun t => (statusWord t, t.wv[0], t.wv[43], t.responses)) =
    some (0x0007#16, false, false, [.error .invalidKeyLength]) := by decide
/-- P1 row 24. -/
theorem test_step_rdw : (nextOf (step (presenting [0x3004#16] (withWord 4 0xa0fafe17#32 doneState)))).map (·.responses) =
    some [.ok 0xa0fafe17#128] := by decide
/-- P1 row 23. -/
theorem test_step_rdrk : (nextOf (exec (.rdrk 10#8) (withWord 40 0xd014f9a8#32 (withWord 41 0xc9ee2589#32
      (withWord 42 0xe13f0cc8#32 (withWord 43 0xb6630ca6#32 doneState)))))).map (·.responses) =
    some [.ok 0xd014f9a8c9ee2589e13f0cc8b6630ca6#128] := by decide
/-- P4 row 23. -/
theorem test_step_rdst : (nextOf (exec .rdst { doneState with kcnt := 4#5 })).map (·.responses) =
    some [.ok 0x0042#128] := by decide
/-- P5 rows 7 and 10: the range check stands before the state check. -/
theorem test_step_refusals : (nextOf (exec (.rdw 44#8) State.reset)).map (·.responses) =
      some [.refused .indexOutOfRange] ∧
    (nextOf (exec (.rdw 0#8) State.reset)).map (·.responses) = some [.refused .notDone] := by decide
/-- Section 2, row 3. -/
theorem test_step_copy : (nextOf (step { busyAt 3#6 with k := knownKey })).map
    (fun t => (t.w[3], t.wv[3], t.idx, t.st)) = some (0x09cf4f3c#32, true, 4#6, .busy) := by decide
/-- Section 2, row 4, with the values of `TEMP` and `P` of R125. -/
theorem test_step_g : (nextOf (step (withWord 0 0x2b7e1516#32 (withWord 3 0x09cf4f3c#32 (busyAt 4#6))))).map
    (fun t => (t.w[4], t.temp, t.p, t.idx)) =
    some (0xa0fafe17#32, 0x8b84eb01#32, 0x2b7e1516#32, 5#6) := by decide
/-- Section 2, row 7: neither rotation nor substitution nor round constant. -/
theorem test_step_x : (nextOf (step (withWord 3 0x09cf4f3c#32 (withWord 6 0x23a33939#32 (busyAt 7#6))))).map
    (fun t => (t.w[7], t.idx)) = some (0x2a6c7605#32, 8#6) := by decide
/-- Section 2, row 43, and section 6: `IDX` 44, `ST` `DONE`, and the response to `START`. -/
theorem test_step_x_last : (nextOf (step (withWord 39 0x575c006e#32 (withWord 42 0xe13f0cc8#32 (busyAt 43#6))))).map
    (fun t => (t.w[43], t.idx, t.st, t.responses)) = some (0xb6630ca6#32, 44#6, .done, [.ok 0#128]) := by decide

/-- R40: `STATUS` after reset is 0; the other situations of section 7. -/
theorem test_status : statusWord State.reset = 0x0000#16 ∧ statusWord (pushed 3#5) = 0x0030#16 ∧
    statusWord (pushed 16#5) = 0x0100#16 ∧ statusWord (pushed 17#5) = 0x0110#16 ∧
    statusWord { doneState with kcnt := 16#5 } = 0x0102#16 ∧
    statusWord { pushed 16#5 with st := .error, err := .invalidKeyLength } = 0x0107#16 := by decide

theorem test_clean_marks_refusals : State.clean { State.reset with responses := [.ok 0#128] } = true ∧
    State.clean { State.reset with responses := [.refused .notDone] } = false := by decide

/-! ### Script text (R95, R96) -/

theorem test_text_kpush : assembleLine ['K', 'P', 'U', 'S', 'H', ' ', '0', 'x', '2', 'b', ' ', ';', 'x'] =
    some [0x102b#16] := by decide
theorem test_text_rdw : assembleLine ['R', 'D', 'W', ' ', '4', '4'] = some [0x302c#16] := by decide
theorem test_text_raw : assembleLine ['.', 'c', 'm', 'd', ' ', '0', 'x', '6', '0', '0', '0'] = some [0x6000#16] := by
  decide
theorem test_text_expand : assembleLine ['E', 'X', 'P', 'A', 'N', 'D', ' ', '2', 'b', '7', 'e'] =
    some [0x102b#16, 0x107e#16, 0x2000#16] := by decide
theorem test_text_rejects : assembleLine ['K', 'P', 'U', 'S', 'H', ' ', '2', '5', '6'] = none ∧
    assembleLine ['K', 'E', 'Y', ' ', '2'] = none ∧ assembleLine [' ', ';', 'a'] = some [] := by decide

/-! ### Invariants of the small states -/

theorem inv_busyAt_0 : Inv (busyAt 0#6) := by constructor <;> decide
theorem inv_busyAt_43 : Inv (busyAt 43#6) := by constructor <;> decide
theorem inv_doneState : Inv doneState := by constructor <;> decide
theorem inv_reset : Inv State.reset := by constructor <;> decide

/-! ### Witnesses for the hypotheses of the obligations -/

theorem witness_DecodeOfEncodeIsTheOperation : (Instr.rdw 43#8).wellFormed = true ∧
    (Instr.rdrk 10#8).wellFormed = true ∧ (Instr.ksG 1#4).wellFormed = true ∧ (Instr.ksG 10#4).wellFormed = true ∧
    (Instr.ksX 1#4 1#2).wellFormed = true ∧ (Instr.ksX 10#4 3#2).wellFormed = true := by decide
theorem witness_DecodedBitsAreTheEncoding : decode (.command 0x30ff#16) = .ok (.rdw 255#8) ∧
    decodeIndex 43#6 = .ok (.ksX 10#4 3#2) := by decide
theorem witness_StepRunsTheDecodedOperation :
    (resetAsserted (presenting [0x5000#16] State.reset) = false ∧ (presenting [0x5000#16] State.reset).st ≠ .busy ∧
      (presenting [0x5000#16] State.reset).port = 0x5000#16 :: [] ∧ decodeCommand 0x5000#16 = .ok .rdst) ∧
    (resetAsserted (busyAt 4#6) = false ∧ (busyAt 4#6).st = .busy ∧ decodeIndex (busyAt 4#6).idx = .ok (.ksG 1#4)) := by
  decide
theorem witness_StepKindFollowsTheIndex : resetAsserted (busyAt 3#6) = false ∧ (busyAt 3#6).st = .busy ∧
    (busyAt 3#6).idx.toNat ≤ 3 ∧
    (4 ≤ (busyAt 4#6).idx.toNat ∧ (busyAt 4#6).idx.toNat ≤ 43 ∧ (busyAt 4#6).idx.toNat % 4 = 0) ∧
    (4 ≤ (busyAt 40#6).idx.toNat ∧ (busyAt 40#6).idx.toNat ≤ 43 ∧ (busyAt 40#6).idx.toNat % 4 = 0) ∧
    (4 ≤ (busyAt 5#6).idx.toNat ∧ (busyAt 5#6).idx.toNat ≤ 43 ∧ (busyAt 5#6).idx.toNat % 4 ≠ 0) ∧
    (4 ≤ (busyAt 43#6).idx.toNat ∧ (busyAt 43#6).idx.toNat ≤ 43 ∧ (busyAt 43#6).idx.toNat % 4 ≠ 0) := by decide
theorem witness_BusyOutsideTheStepsIsAFault : resetAsserted (busyAt 45#6) = false ∧ (busyAt 45#6).st = .busy ∧
    45 ≤ (busyAt 45#6).idx.toNat ∧ 45 ≤ (busyAt 63#6).idx.toNat ∧ (busyAt 44#6).idx.toNat = 44 := by decide
theorem witness_WaitingKeepsAllState : resetAsserted State.reset = false ∧ State.reset.st ≠ .busy ∧
    State.reset.port = [] := by decide
theorem witness_ResetGivesTheResetValues : resetAsserted (inReset doneState) = true := by decide
theorem witness_ResetDuringAnExpansionDiscardsIt : resetAsserted (inReset (busyAt 7#6)) = true ∧
    (inReset (busyAt 7#6)).st = .busy := by decide
theorem witness_HostIsHeldWhileBusy :
    (resetAsserted (busyAt 0#6) = false ∧ (busyAt 0#6).st = .busy ∧ (∃ t, step (busyAt 0#6) = .next t) ∧
      (busyAt 0#6).idx ≠ 43#6) ∧
    ((∃ t, step (busyAt 43#6) = .next t) ∧ (busyAt 43#6).idx = 43#6) :=
  ⟨⟨by decide, by decide, ⟨_, rfl⟩, by decide⟩, ⟨_, rfl⟩, by decide⟩
/-- One word for each clause, at the ends of the ranges: opcode 0, 6; `rsv`; `START 1`; `RDW 44`; `RDRK 11`; `RDW 43`
and `RDRK 10` in a state not `DONE`. -/
theorem witness_RefusedWordsAreAnsweredAndChangeNothing :
    resetAsserted (presenting [0x0000#16] State.reset) = false ∧ State.reset.st ≠ .busy ∧ State.reset.st ≠ .done ∧
    (presenting [0x0000#16] State.reset).port = 0x0000#16 :: [] ∧
    ([0x0000#16, 0x6000#16, 0x5f00#16, 0x2001#16, 0x5080#16, 0x302c#16, 0x400b#16, 0x302b#16, 0x400a#16].map
      fun w => ((w.extractLsb' 12 4).toNat, (w.extractLsb' 8 4).toNat, (w.extractLsb' 0 8).toNat)) =
    [(0, 0, 0), (6, 0, 0), (5, 15, 0), (2, 0, 1), (5, 0, 128), (3, 0, 44), (4, 0, 11), (3, 0, 43), (4, 0, 10)] := by
  decide
theorem witness_EveryConsumedWordGetsOneResponse : resetAsserted (presenting [0x5000#16] State.reset) = false ∧
    ∃ t, step (presenting [0x5000#16] State.reset) = .next t := ⟨by decide, _, rfl⟩
theorem witness_PlacedOperationIsRunNext : decodeTableWord 16 (0x5000#16).toNat = some .rdst ∧
    decodeTableWord 8 (43#6).toNat = some (.ksX 10#4 3#2) := by decide
/-- The hypothesis `step s = .next t` of the four statements on control registers: a reset, a sequencer step, a
`START` and a `KPUSH`. -/
theorem witness_transitions : (∃ t, step (inReset doneState) = .next t) ∧ (∃ t, step (busyAt 43#6) = .next t) ∧
    (∃ t, step (presenting [0x2000#16] (pushed 16#5)) = .next t) ∧
    (∃ t, step (presenting [0x1000#16] (pushed 17#5)) = .next t) ∧
    (State.reset.err = .invalidKeyLength ↔ State.reset.st = .error) ∧ (busyAt 43#6).idx.toNat ≤ 44 :=
  ⟨⟨_, rfl⟩, ⟨_, rfl⟩, ⟨_, rfl⟩, ⟨_, rfl⟩, by decide, by decide⟩
theorem witness_OnlyTheirWritersChangeTheStores :
    ((nextOf (step (presenting [0x10ff#16] State.reset))).map (decide <| ·.k ≠ State.reset.k)) = some true ∧
    ((nextOf (step { busyAt 0#6 with k := knownKey })).map (decide <| ·.w ≠ (busyAt 0#6).w)) = some true ∧
    ((nextOf (step (presenting [0x2000#16] doneState))).map (·.wv[43])) = some false ∧ doneState.wv[43] = true := by
  decide
theorem witness_KpushStoresTheByteAndCounts :
    (resetAsserted (presenting [0x10ff#16] doneState) = false ∧ (presenting [0x10ff#16] doneState).st ≠ .busy ∧
      (presenting [0x10ff#16] doneState).port = kpushWord 0xff#8 :: []) ∧
    (resetAsserted (presenting [0x1000#16] (busyAt 0#6)) = false ∧ (presenting [0x1000#16] (busyAt 0#6)).st = .busy ∧
      (presenting [0x1000#16] (busyAt 0#6)).port = kpushWord 0#8 :: [] ∧
      ∃ t, step (presenting [0x1000#16] (busyAt 0#6)) = .next t) :=
  ⟨by decide, by decide, by decide, by decide, _, rfl⟩
theorem witness_RdstAnswersTheStatus : resetAsserted (presenting [0x5000#16] (busyAt 43#6)) = false ∧
    (presenting [0x5000#16] (busyAt 43#6)).st = .busy ∧
    (presenting [0x5000#16] (busyAt 43#6)).port = rdstWord :: [] ∧
    ∃ t, step (presenting [0x5000#16] (busyAt 43#6)) = .next t := ⟨by decide, by decide, by decide, _, rfl⟩
theorem witness_KpushAndStartLeaveTheRest : (∃ b, Instr.kpush 0#8 = .kpush b) ∧ Instr.start = .start :=
  ⟨⟨_, rfl⟩, rfl⟩
theorem witness_DerivedStepsLoadThePipeline :
    (resetAsserted (busyAt 4#6) = false ∧ (busyAt 4#6).st = .busy ∧ decodeIndex (busyAt 4#6).idx = .ok (.ksG 1#4) ∧
      (∀ k, Instr.ksG 1#4 ≠ .ksCopy k) ∧ ∃ t, step (busyAt 4#6) = .next t) ∧
    (decodeIndex (busyAt 43#6).idx = .ok (.ksX 10#4 3#2) ∧ (∀ k, Instr.ksX 10#4 3#2 ≠ .ksCopy k) ∧
      ∃ t, step (busyAt 43#6) = .next t) :=
  ⟨⟨by decide, by decide, by decide, fun _ h => (nomatch h), _, rfl⟩, by decide, fun _ h => (nomatch h), _, rfl⟩
theorem witness_StartWithSixteenBytesBegins : (pushed 16#5).kcnt = 16#5 := by decide
theorem witness_StartWithAnotherLengthRaises : (pushed 15#5).kcnt ≠ 16#5 ∧ (pushed 17#5).kcnt ≠ 16#5 := by decide
theorem witness_RdwAnswersTheWord : 43 < (44#8).toNat ∧ (43#8).toNat ≤ 43 ∧ State.reset.st ≠ .done ∧
    (43 : Fin 44).val = (43#8).toNat ∧ doneState.st = .done ∧ doneState.wv[43] = true := by decide
theorem witness_RdrkAnswersTheRoundKey : 10 < (11#8).toNat ∧ (10#8).toNat ≤ 10 ∧ State.reset.st ≠ .done ∧
    (10 : Fin 11).val = (10#8).toNat ∧ doneState.st = .done ∧
    ∀ m : Fin 4, doneState.wv[4 * (10 : Fin 11).val + m.val]'(by simp; omega) = true := by decide
theorem witness_ReadsChangeNoState : (∃ t, exec (.rdw 43#8) doneState = .next t) ∧
    (∃ t, exec (.rdrk 10#8) doneState = .next t) ∧ (∃ t, exec .rdst doneState = .next t) :=
  ⟨⟨_, rfl⟩, ⟨_, rfl⟩, ⟨_, rfl⟩⟩
theorem witness_KsCopyCopiesTheKeyWord : (3 : Fin 44).val = (3#2).toNat ∧
    (15 : Fin 16).val = 4 * (3#2).toNat + (3 : Fin 4).val ∧ (0 : Fin 44).val = (0#2).toNat ∧
    (0 : Fin 16).val = 4 * (0#2).toNat + (0 : Fin 4).val := by decide
theorem witness_KsGMakesTheFirstWord :
    (1 ≤ (1#4).toNat ∧ (1#4).toNat ≤ 10 ∧ (busyAt 4#6).wv[3] = true ∧ (busyAt 4#6).wv[0] = true) ∧
    (1 ≤ (10#4).toNat ∧ (10#4).toNat ≤ 10 ∧ (busyAt 40#6).wv[39] = true ∧ (busyAt 40#6).wv[36] = true) := by decide
theorem witness_KsXMakesTheOtherWords :
    (1#2 ≠ 0#2 ∧ (busyAt 5#6).wv[4 * (1#4).toNat + (1#2).toNat - 1] = true ∧
      (busyAt 5#6).wv[4 * (1#4).toNat + (1#2).toNat - 4] = true) ∧
    (3#2 ≠ 0#2 ∧ (busyAt 43#6).wv[4 * (10#4).toNat + (3#2).toNat - 1] = true ∧
      (busyAt 43#6).wv[4 * (10#4).toNat + (3#2).toNat - 4] = true) := by decide
theorem witness_UnwrittenWordsAreFaults :
    (State.reset.wv[4 * (1#4).toNat + (1#2).toNat - 1] = false) ∧
    ((withWord 3 0#32 State.reset).wv[4 * (1#4).toNat - 1] = true ∧
      (withWord 3 0#32 State.reset).wv[4 * (1#4).toNat - 4] = false) ∧
    (({ State.reset with st := .done } : State).st = .done ∧ State.reset.wv[43] = false) := by decide
theorem witness_SequencerStepWritesOneWord : resetAsserted (busyAt 43#6) = false ∧ (busyAt 43#6).st = .busy ∧
    (∃ t, step (busyAt 43#6) = .next t) ∧ (43 : Fin 44).val = (busyAt 43#6).idx.toNat ∧
    (0 : Fin 44).val ≠ (busyAt 43#6).idx.toNat := ⟨by decide, by decide, ⟨_, rfl⟩, by decide, by decide⟩
theorem witness_RconRanges : (1 ≤ (10#4).toNat ∧ (10#4).toNat ≤ 10) ∧ (1 ≤ (9#4).toNat ∧ (9#4).toNat ≤ 9) ∧
    (0#4).toNat = 0 ∧ 11 ≤ (11#4).toNat := by decide
theorem witness_EveryStepKeepsTheInvariants : Inv (busyAt 43#6) ∧ ∃ t, step (busyAt 43#6) = .next t :=
  ⟨inv_busyAt_43, _, rfl⟩
theorem witness_NoStepStopsUnderTheInvariants : Inv doneState ∧ Inv State.reset := ⟨inv_doneState, inv_reset⟩
theorem witness_ExpansionAdvancesToCompletion : Inv (busyAt 0#6) ∧ (busyAt 0#6).st = .busy ∧
    (busyAt 0#6).idx.toNat + 44 ≤ 44 ∧ QuietFor 44 (busyAt 0#6) :=
  ⟨inv_busyAt_0, by decide, by decide, by intro b hb; simp [busyAt] at hb⟩
theorem witness_AcceptedStartComputesTheExpansion : (pushed 16#5).kcnt = 16#5 ∧ QuietFor 44 (pushed 16#5) :=
  ⟨by decide, by intro b hb; simp [pushed, State.reset] at hb⟩
theorem witness_IsExpansion : IsExpansion knownKey knownSchedule := test_known_schedule
theorem witness_ExpandScriptOfSixteenBytes :
    let s := presenting (expandScript knownKey.toList) State.reset
    s.st ≠ .busy ∧ s.kcnt = 0#5 ∧ s.port = expandScript knownKey.toList ++ [] ∧ QuietFor 61 s :=
  ⟨by decide, by decide, by simp [presenting], by intro b hb; simp [presenting, State.reset] at hb⟩
/-- The hypotheses of ExpandScriptOfAnotherLength for a key and the script of it after reset. -/
def AnotherLengthHypotheses (key : List Byte) : Prop :=
  let s := presenting (expandScript key) State.reset
  key.length ≠ 16 ∧ s.st ≠ .busy ∧ s.kcnt = 0#5 ∧ s.port = expandScript key ++ [] ∧ QuietFor (key.length + 1) s

theorem anotherLengthHypotheses {key : List Byte} (h : key.length ≠ 16) : AnotherLengthHypotheses key :=
  ⟨h, by simp [presenting, State.reset], rfl, by simp [presenting], by intro b hb; simp [presenting, State.reset] at hb⟩

/-- No byte, one byte short and one byte too many (R183). -/
theorem witness_ExpandScriptOfAnotherLength : AnotherLengthHypotheses [] ∧
    AnotherLengthHypotheses (List.replicate 15 0#8) ∧ AnotherLengthHypotheses (List.replicate 17 0xff#8) :=
  ⟨anotherLengthHypotheses (by decide), anotherLengthHypotheses (by decide), anotherLengthHypotheses (by decide)⟩
/-- Two different states that only unspecified contents tell apart. -/
theorem witness_UnspecifiedContentsAreUnobservable :
    SameObservable State.reset { State.reset with temp := 1#32, w := State.reset.w.set 0 5#32 } ∧
    State.reset ≠ { State.reset with temp := 1#32, w := State.reset.w.set 0 5#32 } :=
  ⟨by constructor <;> decide, by decide⟩
/-- Two different keys, pushed and to be pushed. -/
theorem witness_ControlIsIndependentOfData :
    SameControl (presenting [0x1001#16] (busyAt 0#6)) (presenting [0x10ff#16] { busyAt 0#6 with k := knownKey }) ∧
    presenting [0x1001#16] (busyAt 0#6) ≠ presenting [0x10ff#16] { busyAt 0#6 with k := knownKey } :=
  ⟨by constructor <;> decide, by decide⟩

end Sys2Proof.Tests
end

section
/-! SUPPORT. What a step that answers a next state can be, as one inductive predicate: every fact about the control
registers and the stores is a case analysis on it. -/

namespace Sys2Proof.Machine

variable {s t : State}

/-! ### The state a sequencer step leaves, field by field (R151) -/

section AfterWrite
variable (n : Nat) (h : n < 44) (v temp p : Word) (s : State)

@[simp] theorem afterWrite_k : (afterWrite n h v temp p s).k = s.k := rfl
@[simp] theorem afterWrite_kcnt : (afterWrite n h v temp p s).kcnt = s.kcnt := rfl
@[simp] theorem afterWrite_w : (afterWrite n h v temp p s).w = s.w.set n v := rfl
@[simp] theorem afterWrite_wv : (afterWrite n h v temp p s).wv = s.wv.set n true := rfl
@[simp] theorem afterWrite_idx : (afterWrite n h v temp p s).idx = s.idx + 1#6 := rfl
@[simp] theorem afterWrite_st : (afterWrite n h v temp p s).st = if s.idx = 43#6 then .done else s.st := rfl
@[simp] theorem afterWrite_err : (afterWrite n h v temp p s).err = s.err := rfl

end AfterWrite

/-! ### The words of `KPUSH` and `START` (R83) -/

theorem startWord_eq : startWord = 0x2000#16 := by decide

/-- The high byte of a command word is `op` and `rsv`, so `0x10` is the high byte of exactly the `KPUSH` words. -/
theorem highByte_eq_kpush_iff {w : CommandWord} :
    w.extractLsb' 8 8 = 0x10#8 ↔ opField w = 0x1#4 ∧ rsvField w = 0#4 := by
  have hfields : w.extractLsb' 8 8 = opField w ++ rsvField w :=
    (BitVec.extractLsb'_append_extractLsb'_eq_extractLsb' (x := w) (by decide : 12 = 8 + 4)).symm
  have happend : ∀ op rsv : BitVec 4, op ++ rsv = 0x10#8 ↔ op = 0x1#4 ∧ rsv = 0#4 := by decide
  rw [hfields, happend]

theorem highByte_kpushWord (b : Byte) : (kpushWord b).extractLsb' 8 8 = 0x10#8 := by
  simp [highByte_eq_kpush_iff, kpushWord]

theorem kpushWord_ne_start (b : Byte) : kpushWord b ≠ 0x2000#16 := by
  intro h
  have hop : opField (kpushWord b) = opField 0x2000#16 := congrArg opField h
  rw [kpushWord, opField_commandWord] at hop
  exact absurd hop (by decide)

/-! ### The kinds of step -/

/-- `StepsTo s t`: the kinds of step the block takes from `s`, each with the state `t` it leaves (R13). -/
inductive StepsTo (s : State) : State → Prop where
  | reset (hr : resetAsserted s = true) : StepsTo s (applyReset s)
  | sequencer (hr : resetAsserted s = false) (hb : s.st = .busy) (v temp p : Word) (hi : s.idx.toNat < 44) :
      StepsTo s (afterWrite s.idx.toNat hi v temp p (consume s))
  | wait (hr : resetAsserted s = false) (hb : s.st ≠ .busy) (hp : s.port = []) : StepsTo s (consume s)
  | push (hr : resetAsserted s = false) (hb : s.st ≠ .busy) (b : Byte) (rest : List CommandWord)
      (hp : s.port = kpushWord b :: rest) : StepsTo s (respond (.ok 0#128) (pushKeyByte b (consume s)))
  | start (hr : resetAsserted s = false) (hb : s.st ≠ .busy) (rest : List CommandWord)
      (hp : s.port = 0x2000#16 :: rest) (hc : s.kcnt = 16#5) :
      StepsTo s (beginExpansion (clearSchedule (consume s)))
  | raise (hr : resetAsserted s = false) (hb : s.st ≠ .busy) (rest : List CommandWord)
      (hp : s.port = 0x2000#16 :: rest) (hc : s.kcnt ≠ 16#5) :
      StepsTo s (raiseInvalidKeyLength (clearSchedule (consume s)))
  | answer (hr : resetAsserted s = false) (hb : s.st ≠ .busy) (w : CommandWord) (rest : List CommandWord)
      (hp : s.port = w :: rest) (hstart : w ≠ 0x2000#16) (hpush : w.extractLsb' 8 8 ≠ 0x10#8) (r : Response) :
      StepsTo s (respond r (consume s))

/-- Every step that answers a next state is of one of these kinds. -/
theorem stepsTo_of_step (h : step s = .next t) : StepsTo s t := by
  cases hr : resetAsserted s with
  | true =>
    have ht : applyReset s = t := by simpa [step, hr] using h
    exact ht ▸ .reset hr
  | false =>
    by_cases hb : s.st = .busy
    · obtain ⟨v, temp, p, hi, ht⟩ := busyStep_next hr hb h
      rw [ht, ← consume_busy hb]
      exact .sequencer hr hb v temp p hi
    · rcases hostStep_next hr hb h with ⟨hp, rfl⟩ | ⟨w, rest, hp, hkind⟩
      · exact .wait hr hb hp
      · rcases hkind with ⟨b, rfl, rfl⟩ | ⟨rfl, hc, rfl⟩ | ⟨rfl, hc, rfl⟩ | ⟨hstart, hpush, r, rfl⟩
        · exact .push hr hb b rest hp
        · exact .start hr hb rest hp hc
        · exact .raise hr hb rest hp hc
        · exact .answer hr hb w rest hp hstart (mt highByte_eq_kpush_iff.mp hpush) r

end Sys2Proof.Machine
end

section
/-! SUPPORT. The control registers and the stores over one step (spec/10_state.md R20 to R29). -/

namespace Sys2Proof.Machine

/-- Settles O16: `ST` over each kind of step. -/
theorem stateFieldTransitions : Obligations.StateFieldTransitions := by
  intro s t h
  cases stepsTo_of_step h with
  | reset hr => simp [hr]
  | sequencer hr hb => simp [hr, hb]
  | wait hr hb hp => simp [hr, hb, hp]
  | push hr hb b rest hp => simp [hr, hb, hp, kpushWord_ne_start]
  | start hr hb rest hp hc => simp [hr, hb, hp, hc]
  | raise hr hb rest hp hc => simp [hr, hb, hp, hc]
  | answer hr hb w rest hp hstart => simp [hr, hb, hp, hstart]

/-- Settles O17: `ERR` over each kind of step; where `ST` or `ERR` changes, both become what the other says. -/
theorem errorFieldTransitions : Obligations.ErrorFieldTransitions := by
  intro s t h
  cases stepsTo_of_step h with
  | reset hr => simp [hr]
  | sequencer hr hb =>
    refine ⟨by simp [hr, hb], fun herr => ?_⟩
    by_cases h43 : s.idx = 43#6 <;> simp [herr, hb, h43]
  | wait hr hb hp => simp [hr, hb, hp]
  | push hr hb b rest hp => simp [hr, hb, hp, kpushWord_ne_start]
  | start hr hb rest hp hc => simp [hr, hb, hp, hc]
  | raise hr hb rest hp hc => simp [hr, hb, hp, hc]
  | answer hr hb w rest hp hstart => simp [hr, hb, hp, hstart]

/-- Settles O18: `KCNT` over each kind of step. -/
theorem keyCountTransitions : Obligations.KeyCountTransitions := by
  intro s t h
  cases stepsTo_of_step h with
  | reset hr => simp [hr]
  | sequencer hr hb => simp [hr, hb]
  | wait hr hb hp => simp [hr, hb, hp]
  | push hr hb b rest hp => simp [hr, hb, hp, kpushWord_ne_start, highByte_kpushWord, nextKcnt_toNat]
  | start hr hb rest hp hc => simp [hr, hb, hp]
  | raise hr hb rest hp hc => simp [hr, hb, hp]
  | answer hr hb w rest hp hstart hpush => simp [hr, hb, hp, hstart, hpush]

/-- Settles O19: `IDX` over each kind of step; only the sequencer's steps count. -/
theorem wordIndexTransitions : Obligations.WordIndexTransitions := by
  intro s t h
  cases stepsTo_of_step h with
  | reset hr => simp [hr]
  | sequencer hr hb v temp p hi =>
    have hnext : (s.idx + 1#6).toNat = s.idx.toNat + 1 := nextIndex_toNat (by omega)
    refine ⟨by simp [hr, hb], fun _ _ => ⟨by omega, fun h43 => by simp [h43]⟩, fun _ => ?_⟩
    rw [afterWrite_idx, consume_idx, hnext]
    omega
  | wait hr hb hp => simp [hr, hb, hp]
  | push hr hb b rest hp => simp [hr, hb, hp, kpushWord_ne_start]
  | start hr hb rest hp => simp [hr, hb, hp]
  | raise hr hb rest hp => simp [hr, hb, hp]
  | answer hr hb w rest hp hstart => simp [hr, hb, hp, hstart]

/-- Settles O20: each kind of step that changes a store is the writer of that store. -/
theorem onlyTheirWritersChangeTheStores : Obligations.OnlyTheirWritersChangeTheStores := by
  intro s t hr h
  cases stepsTo_of_step h with
  | reset hr' => simp [hr] at hr'
  | sequencer _ hb v temp p hi =>
    refine ⟨by simp, fun _ => hb, fun i hset hclear => ?_⟩
    have hkept : (s.wv.set s.idx.toNat true)[i.val] = true := by
      simp only [Vector.getElem_set]
      split
      · rfl
      · exact hset
    exact absurd (hkept.symm.trans hclear) (by decide)
  | wait => exact ⟨by simp, by simp, fun i hset hclear => by simp [hset] at hclear⟩
  | push _ hb b rest hp =>
    exact ⟨fun _ => ⟨hb, b, rest, hp⟩, by simp, fun i hset hclear => by simp [hset] at hclear⟩
  | start _ hb rest hp => exact ⟨by simp, by simp, fun _ _ _ => ⟨hb, rest, startWord_eq ▸ hp⟩⟩
  | raise _ hb rest hp => exact ⟨by simp, by simp, fun _ _ _ => ⟨hb, rest, startWord_eq ▸ hp⟩⟩
  | answer => exact ⟨by simp, by simp, fun i hset hclear => by simp [hset] at hclear⟩

end Sys2Proof.Machine
end

section
/-! SUPPORT. The invariants (a) to (e) of spec/10_state.md R45: where they begin, and that each kind of step keeps
them. -/

namespace Sys2Proof.Machine

variable {s t : State}

/-- With every flag clear and no expansion running, (a) is met and (b) and (c) say nothing. -/
theorem inv_of_noSchedule (hst : s.st = .idle ∨ s.st = .error) (hwv : s.wv = Vector.replicate 44 false)
    (herr : s.err = .invalidKeyLength ↔ s.st = .error) (hkcnt : s.kcnt.toNat ≤ 17) : Inv s where
  noSchedule _ i := by simp [hwv]
  partialSchedule hb := by simp [hb] at hst
  fullSchedule hd := by simp [hd] at hst
  errorRecorded := herr
  countBounded := hkcnt

/-- During an expansion only (b) speaks of the schedule. -/
theorem inv_of_partialSchedule (hst : s.st = .busy) (hidx : s.idx.toNat ≤ 43)
    (hwv : ∀ i : Fin 44, s.wv[i] = true ↔ i.val < s.idx.toNat) (herr : s.err ≠ .invalidKeyLength)
    (hkcnt : s.kcnt.toNat ≤ 17) : Inv s where
  noSchedule h := by simp [hst] at h
  partialSchedule _ := ⟨hidx, hwv⟩
  fullSchedule h := by simp [hst] at h
  errorRecorded := by simp [hst, herr]
  countBounded := hkcnt

/-- After an expansion only (c) speaks of the schedule. -/
theorem inv_of_fullSchedule (hst : s.st = .done) (hidx : s.idx = 44#6) (hwv : ∀ i : Fin 44, s.wv[i] = true)
    (herr : s.err ≠ .invalidKeyLength) (hkcnt : s.kcnt.toNat ≤ 17) : Inv s where
  noSchedule h := by simp [hst] at h
  partialSchedule h := by simp [hst] at h
  fullSchedule _ := ⟨hidx, hwv⟩
  errorRecorded := by simp [hst, herr]
  countBounded := hkcnt

/-- The invariants speak of `WV`, `IDX`, `ST`, `ERR` and the bound on `KCNT` only. -/
theorem Inv.of_sameControl (h : Inv s) (hwv : t.wv = s.wv) (hidx : t.idx = s.idx) (hst : t.st = s.st)
    (herr : t.err = s.err) (hkcnt : t.kcnt.toNat ≤ 17) : Inv t where
  noSchedule := by simpa only [hst, hwv] using h.noSchedule
  partialSchedule := by simpa only [hst, hwv, hidx] using h.partialSchedule
  fullSchedule := by simpa only [hst, hwv, hidx] using h.fullSchedule
  errorRecorded := by simpa only [hst, herr] using h.errorRecorded
  countBounded := hkcnt

theorem inv_consume (h : Inv s) : Inv (consume s) := h.of_sameControl rfl rfl rfl rfl h.countBounded

/-- Settles O43: at reset no schedule is held, no error is recorded and no byte is pushed. -/
theorem resetStateMeetsTheInvariants : Obligations.ResetStateMeetsTheInvariants :=
  inv_of_noSchedule (.inl rfl) rfl (by simp [State.reset]) (by simp [State.reset])

theorem inv_applyReset (s : State) : Inv (applyReset s) :=
  inv_of_noSchedule (.inl rfl) rfl (by simp) (by simp)

theorem inv_raiseInvalidKeyLength (s : State) : Inv (raiseInvalidKeyLength s) :=
  inv_of_noSchedule (.inr rfl) rfl (by simp) (by simp)

/-- An accepted `START` leaves the partial schedule of no words (R183). -/
theorem inv_beginExpansion_clearSchedule (s : State) : Inv (beginExpansion (clearSchedule s)) :=
  inv_of_partialSchedule rfl (by simp) (by simp) (by simp) (by simp)

/-- Setting flag `n` of flags that are set exactly below `n` sets them exactly below `n + 1`. -/
theorem flags_set_next {wv : Vector Bool 44} {n : Nat} (hn : n < 44)
    (h : ∀ i : Fin 44, wv[i] = true ↔ i.val < n) (i : Fin 44) :
    (wv.set n true)[i] = true ↔ i.val < n + 1 := by
  have hi : wv[i.val] = true ↔ i.val < n := h i
  simp only [Fin.getElem_fin, Vector.getElem_set]
  split
  · exact iff_of_true rfl (by omega)
  · rw [hi]; omega

/-- A sequencer step extends the partial schedule by one word; the step at 43 makes it the full one (R151). -/
theorem inv_afterWrite (h : Inv s) (hb : s.st = .busy) (hi : s.idx.toNat < 44) (v temp p : Word) :
    Inv (afterWrite s.idx.toNat hi v temp p s) := by
  obtain ⟨-, hbelow⟩ := h.partialSchedule hb
  have hflags := flags_set_next hi hbelow
  have herr : s.err ≠ .invalidKeyLength := fun he => by simp [h.errorRecorded, hb] at he
  by_cases h43 : s.idx = 43#6
  · have hn : s.idx.toNat = 43 := by simp [h43]
    exact inv_of_fullSchedule (by simp [h43]) (by simp [h43]) (fun i => (hflags i).mpr (by omega)) herr
      h.countBounded
  · have hn : s.idx.toNat ≠ 43 := fun e => h43 (BitVec.eq_of_toNat_eq e)
    have hnext : (s.idx + 1#6).toNat = s.idx.toNat + 1 := nextIndex_toNat (by omega)
    refine inv_of_partialSchedule (by simp [h43, hb]) ?_ ?_ herr h.countBounded <;> rw [afterWrite_idx, hnext]
    · omega
    · exact hflags

/-- Settles O44: by the kinds of step. -/
theorem everyStepKeepsTheInvariants : Obligations.EveryStepKeepsTheInvariants := by
  intro s t h hstep
  cases stepsTo_of_step hstep with
  | reset => exact inv_applyReset s
  | sequencer _ hb v temp p hi => exact inv_afterWrite (inv_consume h) hb hi v temp p
  | wait => exact inv_consume h
  | push => exact h.of_sameControl rfl rfl rfl rfl (nextKcnt_le _)
  | start => exact inv_beginExpansion_clearSchedule _
  | raise => exact inv_raiseInvalidKeyLength _
  | answer => exact h.of_sameControl rfl rfl rfl rfl h.countBounded

end Sys2Proof.Machine
end

section
/-! SUPPORT. What the spec leaves unspecified stays unobservable (spec/10_state.md R40, R31, R23): every operation of
the model takes states that differ only there to results that again differ only there. -/

namespace Sys2Proof.Machine

variable {s t : State}

/-! ### Results related at each stage -/

/-- Two results of one kind: related values, or the same fault. -/
def resultsRelated {α : Type} (r : α → α → Prop) : Except Fault α → Except Fault α → Prop
  | .ok a, .ok b => r a b
  | .error e, .error f => e = f
  | _, _ => False

/-- Stages run one after the other are related when each of them is. -/
theorem resultsRelated_bind {α β : Type} {r : α → α → Prop} {q : β → β → Prop} {x y : Except Fault α}
    {f g : α → Except Fault β} (hxy : resultsRelated r x y)
    (hfg : ∀ a b, r a b → resultsRelated q (f a) (g b)) : resultsRelated q (x >>= f) (y >>= g) := by
  cases x <;> cases y
  case ok.ok a b => exact hfg a b hxy
  case error.error => exact hxy
  case ok.error => exact hxy.elim
  case error.ok => exact hxy.elim

theorem resultsRelated_eq_self {α : Type} (x : Except Fault α) : resultsRelated Eq x x := by
  cases x <;> rfl

theorem outcomesRelated_outcomeOf {r : State → State → Prop} {x y : Except Fault State}
    (h : resultsRelated r x y) : outcomesRelated r (outcomeOf x) (outcomeOf y) := by
  cases x <;> cases y <;> exact h

/-! ### The state operations -/

/-- The key buffer after a push (R181): from the 17th on, `KCNT` is the index of no key byte. -/
theorem pushKeyByte_k_getElem (b : Byte) (s : State) (n : Fin 16) :
    (pushKeyByte b s).k[n] = if n.val = s.kcnt.toNat then b else s.k[n] := by
  rw [pushKeyByte_k]
  split
  · simp only [Fin.getElem_fin, Vector.getElem_set, eq_comm]
  · rw [if_neg (by omega)]

namespace SameObservable

theorem consume (h : SameObservable s t) : SameObservable (consume s) (consume t) where
  __ := h
  port := by simp [h.port, h.st]
  resetIn := by simp [h.resetIn]

theorem respond (h : SameObservable s t) (r : Response) : SameObservable (respond r s) (respond r t) where
  __ := h
  responses := by simp [h.responses]

theorem applyReset (h : SameObservable s t) : SameObservable (applyReset s) (applyReset t) where
  kcnt := rfl
  wv := rfl
  idx := rfl
  st := rfl
  err := rfl
  port := by simp [h.port]
  resetIn := by simp [h.resetIn]
  responses := h.responses
  writtenWords _ _ := rfl
  pushedBytes _ _ := rfl

theorem clearSchedule (h : SameObservable s t) : SameObservable (clearSchedule s) (clearSchedule t) where
  __ := h
  wv := rfl
  idx := rfl
  writtenWords i hi := by simp at hi

/-- A pushed byte joins those that count, which agree already (R181). -/
theorem pushKeyByte (h : SameObservable s t) (b : Byte) : SameObservable (pushKeyByte b s) (pushKeyByte b t) where
  __ := h
  kcnt := by simp [h.kcnt]
  pushedBytes n hn := by
    rw [pushKeyByte_k_getElem, pushKeyByte_k_getElem, ← h.kcnt]
    split
    · rfl
    · refine h.pushedBytes n (hn.imp_right fun hcount => ?_)
      rw [pushKeyByte_kcnt, nextKcnt_toNat] at hcount
      omega

/-- All sixteen bytes count from the accepted `START` on; they were pushed (R183). -/
theorem beginExpansion (h : SameObservable s t) (hc : s.kcnt = 16#5) :
    SameObservable (beginExpansion s) (beginExpansion t) where
  __ := h
  kcnt := rfl
  st := rfl
  err := rfl
  pushedBytes n _ := h.pushedBytes n (.inr (by simp [hc]))

theorem raiseInvalidKeyLength (h : SameObservable s t) :
    SameObservable (raiseInvalidKeyLength s) (raiseInvalidKeyLength t) where
  __ := h
  kcnt := rfl
  wv := rfl
  idx := rfl
  st := rfl
  err := rfl
  responses := by simp [h.responses]
  writtenWords i hi := by simp at hi
  pushedBytes n hn := by simp at hn

theorem finishStep (h : SameObservable s t) : SameObservable (finishStep s) (finishStep t) where
  __ := h
  idx := by simp [h.idx]
  st := by simp [h.idx, h.st]
  responses := by simp [h.idx, h.responses]
  pushedBytes n hn := by
    refine h.pushedBytes n (hn.imp_left fun hb => ?_)
    rw [finishStep_st] at hb
    split at hb
    · cases hb
    · exact hb

/-! ### The schedule store -/

/-- A read either faults in both states or sees a word that agrees (R22). -/
theorem readSchedule_eq (h : SameObservable s t) (i : Nat) : readSchedule i s = readSchedule i t := by
  unfold readSchedule
  split
  next hi =>
    have hflag : s.wv[i] = t.wv[i] := by rw [h.wv]
    rw [← hflag]
    split
    next hw => rw [show s.w[i] = t.w[i] from h.writtenWords ⟨i, hi⟩ hw]
    next => rfl
  next => rfl

theorem readRoundKey_eq (h : SameObservable s t) (r : Nat) : readRoundKey r s = readRoundKey r t := by
  simp only [readRoundKey, h.readSchedule_eq]

theorem writeSchedule (h : SameObservable s t) (i : Nat) (v : Word) :
    resultsRelated SameObservable (writeSchedule i v s) (writeSchedule i v t) := by
  unfold Machine.writeSchedule
  split
  next hi =>
    exact {
      __ := h
      wv := by simp [h.wv]
      writtenWords := fun n hn => by
        have hold := h.writtenWords n
        simp only [Fin.getElem_fin, Vector.getElem_set] at hn hold ⊢
        split
        · rfl
        · exact hold (by simpa [*] using hn) }
  next => rfl

/-! ### The key, while it is expanded (R45 (f)) -/

theorem keyWord_eq (h : SameObservable s t) (hb : s.st = .busy) (k : BitVec 2) :
    keyWord s.k k = keyWord t.k k := by
  have hk : s.k = t.k := Vector.ext fun n hn => h.pushedBytes ⟨n, hn⟩ (.inl hb)
  rw [hk]

end SameObservable

/-! ### The pipeline (R125): from `S0` to `S4` the registers `TEMP` and `P` agree too -/

/-- States that agree in what can be observed and in the pipeline registers. -/
structure SamePipeline (s t : State) : Prop extends SameObservable s t where
  temp : s.temp = t.temp
  p : s.p = t.p

namespace SamePipeline

theorem setTemp (h : SamePipeline s t) (v : Word) : SamePipeline { s with temp := v } { t with temp := v } where
  __ := h
  temp := rfl

theorem rotateTemp (h : SamePipeline s t) : SamePipeline (rotateTemp s) (rotateTemp t) := by
  unfold Machine.rotateTemp
  rw [h.temp]
  exact h.setTemp _

theorem substituteTemp (h : SamePipeline s t) : SamePipeline (substituteTemp s) (substituteTemp t) := by
  unfold Machine.substituteTemp
  rw [h.temp]
  exact h.setTemp _

theorem injectRcon (h : SamePipeline s t) (j : BitVec 4) :
    resultsRelated SamePipeline (injectRcon j s) (injectRcon j t) := by
  unfold Machine.injectRcon
  rw [h.temp]
  split
  next v _ => exact h.setTemp v
  next => rfl

theorem combineInto (h : SamePipeline s t) (i : Index) :
    resultsRelated SameObservable (combineInto i s) (combineInto i t) := by
  unfold Machine.combineInto
  rw [h.p, h.temp]
  exact h.writeSchedule _ _

end SamePipeline

namespace SameObservable

/-- `S0` loads both pipeline registers with words that agree. -/
theorem fetchSources (h : SameObservable s t) (i : Index) :
    resultsRelated SamePipeline (fetchSources i s) (fetchSources i t) := by
  unfold Machine.fetchSources
  simp only [h.readSchedule_eq]
  refine resultsRelated_bind (resultsRelated_eq_self _) ?_
  rintro a _ rfl
  refine resultsRelated_bind (resultsRelated_eq_self _) ?_
  rintro b _ rfl
  exact { h with temp := rfl, p := rfl }

/-! ### The meanings -/

theorem execKpush (h : SameObservable s t) (b : Byte) :
    outcomesRelated SameObservable (execKpush b s) (execKpush b t) :=
  (h.pushKeyByte b).respond _

theorem execStart (h : SameObservable s t) : outcomesRelated SameObservable (execStart s) (execStart t) := by
  unfold Machine.execStart
  rw [← h.kcnt]
  split
  next hc => exact h.clearSchedule.beginExpansion hc
  next => exact h.clearSchedule.raiseInvalidKeyLength

/-- What is answered to the result of a read is the same in both states, or both stop with its fault. -/
theorem answerRead (h : SameObservable s t) {α : Type} (x : Except Fault α) (f : α → Response) :
    outcomesRelated SameObservable (outcomeOf do return Machine.respond (f (← x)) s)
      (outcomeOf do return Machine.respond (f (← x)) t) := by
  cases x with
  | ok a => exact h.respond _
  | error => rfl

theorem execRdw (h : SameObservable s t) (i : BitVec 8) :
    outcomesRelated SameObservable (execRdw i s) (execRdw i t) := by
  unfold Machine.execRdw
  rw [← h.st, ← h.readSchedule_eq]
  split
  · exact h.respond _
  split
  · exact h.respond _
  · exact h.answerRead _ fun v => .ok (wordData v)

theorem execRdrk (h : SameObservable s t) (r : BitVec 8) :
    outcomesRelated SameObservable (execRdrk r s) (execRdrk r t) := by
  unfold Machine.execRdrk
  rw [← h.st, ← h.readRoundKey_eq]
  split
  · exact h.respond _
  split
  · exact h.respond _
  · exact h.answerRead _ .ok

theorem execRdst (h : SameObservable s t) : outcomesRelated SameObservable (execRdst s) (execRdst t) := by
  have hstatus : statusData s = statusData t := by simp only [statusData, statusWord, h.kcnt, h.err, h.st]
  unfold Machine.execRdst
  rw [hstatus]
  exact h.respond _

theorem execKsCopy (h : SameObservable s t) (hb : s.st = .busy) (k : BitVec 2) :
    outcomesRelated SameObservable (execKsCopy k s) (execKsCopy k t) := by
  unfold Machine.execKsCopy
  rw [h.keyWord_eq hb]
  exact outcomesRelated_outcomeOf (resultsRelated_bind (h.writeSchedule _ _) fun _ _ h => h.finishStep)

theorem execKsG (h : SameObservable s t) (j : BitVec 4) :
    outcomesRelated SameObservable (execKsG j s) (execKsG j t) :=
  outcomesRelated_outcomeOf <|
    resultsRelated_bind (h.fetchSources _) fun _ _ h =>
    resultsRelated_bind (h.rotateTemp.substituteTemp.injectRcon j) fun _ _ h =>
    resultsRelated_bind (h.combineInto _) fun _ _ h => h.finishStep

theorem execKsX (h : SameObservable s t) (j : BitVec 4) (k : BitVec 2) :
    outcomesRelated SameObservable (execKsX j k s) (execKsX j k t) :=
  outcomesRelated_outcomeOf <|
    resultsRelated_bind (h.fetchSources _) fun _ _ h =>
    resultsRelated_bind (h.combineInto _) fun _ _ h => h.finishStep

/-- Only `KS_COPY` reads `K`, and it runs only while `BUSY`. -/
theorem exec (h : SameObservable s t) {x : Instr} (hx : (∃ k, x = .ksCopy k) → s.st = .busy) :
    outcomesRelated SameObservable (exec x s) (exec x t) := by
  cases x with
  | kpush b => exact h.execKpush b
  | start => exact h.execStart
  | rdw i => exact h.execRdw i
  | rdrk r => exact h.execRdrk r
  | rdst => exact h.execRdst
  | ksCopy k => exact h.execKsCopy (hx ⟨k, rfl⟩) k
  | ksG j => exact h.execKsG j
  | ksX j k => exact h.execKsX j k

theorem reject (h : SameObservable s t) (r : DecodeReject) :
    outcomesRelated SameObservable (reject r s) (reject r t) := by
  cases r with
  | reservedOpcode => exact h.respond _
  | nonZeroReserved => exact h.respond _
  | expansionComplete => rfl
  | badIndex => exact congrArg (fun i : Index => Fault.badIndex i.toNat) h.idx

/-! ### One step -/

theorem fetch_eq (h : SameObservable s t) : fetch s = fetch t := by
  simp only [fetch, h.st, h.idx, h.port]

theorem resetAsserted_eq (h : SameObservable s t) : resetAsserted s = resetAsserted t := by
  simp only [resetAsserted, h.resetIn]

end SameObservable

/-- A copy step is fetched by a `BUSY` block only (R83, R150). -/
theorem busy_of_fetch_ksCopy {e : Encoded} {k : BitVec 2} (hf : fetch s = some e)
    (hd : decode e = .ok (.ksCopy k)) : s.st = .busy := by
  by_contra hb
  obtain ⟨w, -, rfl⟩ : ∃ w, s.port.head? = some w ∧ Encoded.command w = e := by simpa [fetch, hb] using hf
  obtain ⟨-, hx⟩ := decodeCommand_ok hd
  simp at hx

/-- Settles O53: the two blocks fetch the same, and each meaning keeps the relation. -/
theorem unspecifiedContentsAreUnobservable : Obligations.UnspecifiedContentsAreUnobservable := by
  intro s t h
  unfold step
  rw [← h.resetAsserted_eq, ← h.fetch_eq]
  split
  · exact h.applyReset
  cases hf : fetch s with
  | none => exact h.consume
  | some e =>
    cases hd : decode e with
    | error r => simpa only [hd] using h.consume.reject r
    | ok x =>
      have hx : (∃ k, x = .ksCopy k) → (consume s).st = .busy := by
        rintro ⟨k, rfl⟩
        exact busy_of_fetch_ksCopy (s := s) hf hd
      simpa only [hd] using h.consume.exec hx

end Sys2Proof.Machine
end

section
/-! SUPPORT. Reads of words whose flag is clear (spec/10_state.md R22). -/

namespace Sys2Proof.Machine

variable {s : State} {i : Index} {f : Fault}

/-! ### The fetch of the two source words: a fault of either read is the fault of the step (R125) -/

theorem fetchSources_firstFault (h : readSchedule (prevIndex i).toNat s = .error f) :
    fetchSources i s = .error f := by
  simp [fetchSources, h]

theorem fetchSources_secondFault {a : Word} (ha : readSchedule (prevIndex i).toNat s = .ok a)
    (h : readSchedule (backIndex i).toNat s = .error f) : fetchSources i s = .error f := by
  simp [fetchSources, ha, h]

theorem execKsG_fault {j : BitVec 4} (h : fetchSources (stepIndex j 0#2) s = .error f) :
    execKsG j s = .fault f := by
  simp [execKsG, h]

theorem execKsX_fault {j : BitVec 4} {k : BitVec 2} (h : fetchSources (stepIndex j k) s = .error f) :
    execKsX j k s = .fault f := by
  simp [execKsX, h]

theorem execRdw_fault {i : BitVec 8} (hi : i.toNat ≤ 43) (hd : s.st = .done)
    (h : readSchedule i.toNat s = .error f) : execRdw i s = .fault f := by
  simp [execRdw, Nat.not_lt.mpr hi, hd, h]

/-- Settles O34: `S0` reads `W[i-1]` and then `W[i-4]`, and `RDW` reads `W[i]`. -/
theorem unwrittenWordsAreFaults : Obligations.UnwrittenWordsAreFaults := by
  refine ⟨fun j k s hj hj' hk hk0 hclear => ?_, fun j s hj hj' hset hclear => ?_, fun i s hd hclear => ?_⟩
  · have hprev : (prevIndex (stepIndex j k)).toNat = 4 * j.toNat + k.toNat - 1 := by
      rw [prevIndex_toNat, stepIndex_toNat]
      rw [stepIndex_toNat]; omega
    apply execKsX_fault (fetchSources_firstFault _)
    rw [hprev]
    exact readSchedule_unwritten (by omega) hclear
  · have hindex : (stepIndex j 0#2).toNat = 4 * j.toNat := by simp [stepIndex_toNat]
    have hprev : (prevIndex (stepIndex j 0#2)).toNat = 4 * j.toNat - 1 := by
      rw [prevIndex_toNat (by omega), hindex]
    have hback : (backIndex (stepIndex j 0#2)).toNat = 4 * j.toNat - 4 := by
      rw [backIndex_toNat (by omega), hindex]
    have hfirst : readSchedule (prevIndex (stepIndex j 0#2)).toNat s = .ok s.w[4 * j.toNat - 1] := by
      rw [hprev]
      exact readSchedule_written (by omega) hset
    apply execKsG_fault (fetchSources_secondFault hfirst _)
    rw [hback]
    exact readSchedule_unwritten (by omega) hclear
  · have hi : (BitVec.ofNat 8 i.val).toNat = i.val := by
      rw [BitVec.toNat_ofNat, Nat.mod_eq_of_lt (by omega)]
    apply execRdw_fault (by omega) hd
    rw [hi]
    exact readSchedule_unwritten i.isLt hclear

end Sys2Proof.Machine
end

section
/-! SUPPORT. The expansion of a key as a recurrence on lists (spec/10_state.md R46, spec/43_sequencer.md R160). -/

namespace Sys2Proof.Machine

/-- Each word of the list is the one R160 makes from the words before it. -/
def FollowsRecurrence (key : Vector Byte 16) (ws : List Word) : Prop :=
  ∀ i (h : i < ws.length), nextScheduleWord key (ws.take i) i = some ws[i]

theorem followsRecurrence_append {key : Vector Byte 16} {ws : List Word} {v : Word} :
    FollowsRecurrence key (ws ++ [v]) ↔
      FollowsRecurrence key ws ∧ nextScheduleWord key ws ws.length = some v := by
  constructor
  · intro h
    refine ⟨fun i hi => ?_, ?_⟩
    · have hword := h i (hi.trans_le (by simp))
      rwa [List.take_append_of_le_length hi.le, List.getElem_append_left hi] at hword
    · simpa using h ws.length (by simp)
  · rintro ⟨hws, hv⟩ i hi
    rcases Nat.lt_succ_iff_lt_or_eq.mp (by simpa using hi) with hlt | rfl
    · rw [List.take_append_of_le_length hlt.le, List.getElem_append_left hlt]
      exact hws i hlt
    · simpa using hv

theorem expandWords_succ_eq_some {key : Vector Byte 16} {n : Nat} {ws : List Word} :
    expandWords key (n + 1) = some ws ↔
      ∃ before v, expandWords key n = some before ∧ nextScheduleWord key before n = some v ∧
        ws = before ++ [v] := by
  simp [expandWords, Option.bind_eq_some_iff, eq_comm (a := ws)]

/-- The function computes exactly the lists that follow the recurrence. -/
theorem expandWords_eq_some_iff {key : Vector Byte 16} {n : Nat} {ws : List Word} :
    expandWords key n = some ws ↔ ws.length = n ∧ FollowsRecurrence key ws := by
  induction n generalizing ws with
  | zero =>
    rw [List.length_eq_zero_iff]
    constructor
    · intro h
      cases h
      exact ⟨rfl, fun i hi => absurd hi (Nat.not_lt_zero i)⟩
    · rintro ⟨rfl, -⟩
      rfl
  | succ n ih =>
    rw [expandWords_succ_eq_some]
    constructor
    · rintro ⟨before, v, hbefore, hv, rfl⟩
      obtain ⟨rfl, hrec⟩ := ih.mp hbefore
      exact ⟨by simp, followsRecurrence_append.mpr ⟨hrec, hv⟩⟩
    · rintro ⟨hlen, hrec⟩
      rcases List.eq_nil_or_concat' ws with rfl | ⟨before, v, rfl⟩
      · cases hlen
      · obtain rfl : before.length = n := by simpa using hlen
        obtain ⟨hbefore, hv⟩ := followsRecurrence_append.mp hrec
        exact ⟨before, v, ih.mpr ⟨rfl, hbefore⟩, hv, rfl⟩

/-- A derived word exists: its round key index is one of 1..10, where `RCON` has an entry (R122). -/
theorem transformAt_isSome {i : Nat} (h4 : 4 ≤ i) (h : i < 44) (t : Word) : (transformAt i t).isSome := by
  unfold transformAt
  split
  · rw [gWord_isSome, derivedRoundKey_iff, BitVec.toNat_ofNat]
    omega
  · rfl

/-- The first four words are the key's (R160). -/
theorem nextScheduleWord_copied {key : Vector Byte 16} {before : List Word} {i : Nat} (h : i < 4) :
    nextScheduleWord key before i = some (keyWord key (BitVec.ofNat 2 i)) := if_pos h

/-- A later word combines the one before it, transformed, with the one four places back (R160). -/
theorem nextScheduleWord_derived {key : Vector Byte 16} {before : List Word} {i : Nat} {v : Word}
    (h4 : 4 ≤ i) (hi : i = before.length) :
    nextScheduleWord key before i = some v ↔
      ∃ t, transformAt i before[i - 1] = some t ∧ v = xorWord before[i - 4] t := by
  simp [nextScheduleWord, Nat.not_lt.mpr h4, List.getElem?_eq_getElem (show i - 1 < before.length by omega),
    List.getElem?_eq_getElem (show i - 4 < before.length by omega), Option.bind_eq_some_iff, eq_comm (a := v)]

theorem nextScheduleWord_exists (key : Vector Byte 16) {before : List Word} (h : before.length < 44) :
    ∃ v, nextScheduleWord key before before.length = some v := by
  by_cases h4 : before.length < 4
  · exact ⟨_, nextScheduleWord_copied h4⟩
  · have h4 : 4 ≤ before.length := Nat.not_lt.mp h4
    obtain ⟨t, ht⟩ := Option.isSome_iff_exists.mp (transformAt_isSome h4 h before[before.length - 1])
    exact ⟨_, (nextScheduleWord_derived h4 rfl).mpr ⟨t, ht, rfl⟩⟩

theorem expandWords_exists (key : Vector Byte 16) {n : Nat} (h : n ≤ 44) :
    ∃ ws, expandWords key n = some ws := by
  induction n with
  | zero => exact ⟨[], rfl⟩
  | succ n ih =>
    obtain ⟨before, hbefore⟩ := ih (by omega)
    obtain ⟨rfl, -⟩ := expandWords_eq_some_iff.mp hbefore
    obtain ⟨v, hv⟩ := nextScheduleWord_exists key (show before.length < 44 by omega)
    exact ⟨_, expandWords_succ_eq_some.mpr ⟨before, v, hbefore, hv, rfl⟩⟩

/-- A schedule is the expansion of the key exactly when its words, as a list, follow the recurrence. -/
theorem isExpansion_iff_followsRecurrence {key : Vector Byte 16} {w : Vector Word 44} :
    IsExpansion key w ↔ FollowsRecurrence key w.toList := by
  have hcopied (i : Nat) (h : i < 4) : nextScheduleWord key (w.toList.take i) i = some w[i] ↔
      w[i] = keyWord key (BitVec.ofNat 2 i) := by
    rw [nextScheduleWord_copied h, Option.some.injEq, eq_comm]
  have hderived (i : Nat) (h : i < 44) (h4 : 4 ≤ i) : nextScheduleWord key (w.toList.take i) i = some w[i] ↔
      ∃ t, transformAt i w[i - 1] = some t ∧ w[i] = xorWord w[i - 4] t := by
    rw [nextScheduleWord_derived h4 (by simp [h.le])]
    simp
  constructor
  · rintro ⟨hkey, hrec⟩ i hi
    have h : i < 44 := by simpa using hi
    simp only [Vector.getElem_toList]
    by_cases h4 : i < 4
    · have hi := hkey (BitVec.ofNat 2 i)
      simp only [BitVec.toNat_ofNat, Nat.mod_eq_of_lt h4] at hi
      exact (hcopied i h4).mpr hi
    · exact (hderived i h (Nat.not_lt.mp h4)).mpr (hrec i h (Nat.not_lt.mp h4))
  · intro hrec
    have hword (i : Nat) (h : i < 44) : nextScheduleWord key (w.toList.take i) i = some w[i] := by
      have hi := hrec i (by simpa using h)
      rwa [Vector.getElem_toList] at hi
    refine ⟨fun j => ?_, fun i h h4 => (hderived i h h4).mp (hword i h)⟩
    have hj := (hcopied j.toNat j.isLt).mp (hword j.toNat (by omega))
    rwa [BitVec.ofNat_toNat, BitVec.setWidth_eq] at hj

/-- The recurrence holds of exactly the schedule the function gives (R46, R160). -/
theorem isExpansion_iff_expand {key : Vector Byte 16} {w : Vector Word 44} :
    IsExpansion key w ↔ expand key = some w.toList := by
  rw [isExpansion_iff_followsRecurrence, expand, expandWords_eq_some_iff]
  simp

/-- Settles O48: a schedule that meets the recurrence is the value of `expand`, which exists for every key. -/
theorem expansionIsOneFunctionOfTheKey : Obligations.ExpansionIsOneFunctionOfTheKey := by
  refine ⟨fun key => ?_, fun key v w hv hw => ?_, fun key w => isExpansion_iff_expand⟩
  · obtain ⟨ws, hws⟩ := expandWords_exists key (n := 44) le_rfl
    obtain ⟨hlen, -⟩ := expandWords_eq_some_iff.mp hws
    exact ⟨⟨ws.toArray, hlen⟩, isExpansion_iff_expand.mpr hws⟩
  · rw [isExpansion_iff_expand] at hv hw
    exact Vector.toList_inj.mp (Option.some.inj (hv.symm.trans hw))

end Sys2Proof.Machine
end

section
/-! SUPPORT. The byte views of the schedule and of the key (spec/20_memory.md R50 to R53). -/

namespace Sys2Proof.Machine

/-- The packing puts word `q` of a round key at bits[127-32q : 96-32q] (R53). -/
theorem roundKeyData_word (a b c d : Word) (q : Fin 4) :
    (roundKeyData a b c d).extractLsb' (96 - 32 * q.val) 32 = #v[a, b, c, d][q.val] := by
  -- each step passes over the last of the words appended
  match q with
  | 0 => exact (BitVec.extractLsb'_append_eq_of_le (w := 32) (by decide)).trans <|
      (BitVec.extractLsb'_append_eq_of_le (w := 32) (by decide)).trans BitVec.extractLsb'_append_eq_left
  | 1 => exact (BitVec.extractLsb'_append_eq_of_le (w := 32) (by decide)).trans <|
      (BitVec.extractLsb'_append_eq_of_le (w := 32) (by decide)).trans BitVec.extractLsb'_append_eq_right
  | 2 => exact (BitVec.extractLsb'_append_eq_of_le (w := 32) (by decide)).trans BitVec.extractLsb'_append_eq_right
  | 3 => exact BitVec.extractLsb'_append_eq_right

/-- Byte `m` of the word at position `q` of read data is byte `4q + m` of the data (R51, R53). -/
theorem wordByte_extractLsb' (x : BitVec 128) (q m : Fin 4) :
    wordByte (x.extractLsb' (96 - 32 * q.val) 32) m = x.extractLsb' (120 - 8 * (4 * q.val + m.val)) 8 := by
  ext i hi
  have hword : 24 - 8 * m.val + i < 32 := by omega
  have hbit : 96 - 32 * q.val + (24 - 8 * m.val + i) = 120 - 8 * (4 * q.val + m.val) + i := by omega
  simp only [wordByte, BitVec.getElem_extractLsb', BitVec.getLsbD_extractLsb', hword, hbit, decide_true,
    Bool.true_and]

/-- Byte `4q + m` of a packed round key is byte `m` of its word `q`. -/
theorem roundKeyData_byte (a b c d : Word) (q m : Fin 4) :
    (roundKeyData a b c d).extractLsb' (120 - 8 * (4 * q.val + m.val)) 8 = wordByte #v[a, b, c, d][q.val] m := by
  rw [← wordByte_extractLsb', roundKeyData_word]

/-- The words of a round key, by position. -/
theorem roundKeyWords_getElem (w : Vector Word 44) (r : Fin 11) (q : Fin 4) :
    #v[w[4 * r.val], w[4 * r.val + 1], w[4 * r.val + 2], w[4 * r.val + 3]][q.val] = w[4 * r.val + q.val] := by
  match q with
  | 0 | 1 | 2 | 3 => rfl

/-- Byte `4i + m` of the byte view is byte `m` of word `i` (R51). -/
theorem scheduleByte_eq_wordByte (w : Vector Word 44) {n : Fin 176} {i : Nat} {m : Fin 4} (hi : i < 44)
    (hn : n.val = 4 * i + m.val) : scheduleByte w n = wordByte w[i] m := by
  have hword : n.val / 4 = i := by omega
  have hbyte : n.val % 4 = m.val := by omega
  simp only [scheduleByte, hword, hbyte]

/-- Settles O27: byte `4q + m` of the packed key and of the schedule's round key are both byte `m` of word `q`. -/
theorem roundKeyDataIsTheScheduleBytes : Obligations.RoundKeyDataIsTheScheduleBytes := by
  intro w r n
  obtain ⟨q, m, hn⟩ : ∃ q m : Fin 4, n.val = 4 * q.val + m.val :=
    ⟨⟨n.val / 4, by omega⟩, ⟨n.val % 4, by omega⟩, (Nat.div_add_mod n.val 4).symm⟩
  have hindex : 16 * r.val + n.val = 4 * (4 * r.val + q.val) + m.val := by omega
  rw [scheduleByte_eq_wordByte w (by omega) hindex, hn, roundKeyData_byte, roundKeyWords_getElem]

/-- Byte `m` of key word `j` is key byte `4j + m` (R50). -/
theorem wordByte_keyWord (key : Vector Byte 16) (j : BitVec 2) (m : Fin 4) :
    wordByte (keyWord key j) m = key[4 * j.toNat + m.val]'(keyByte_lt j m.val m.isLt) := by
  match m with
  | 0 => exact wordByte_packWord_zero ..
  | 1 => exact wordByte_packWord_one ..
  | 2 => exact wordByte_packWord_two ..
  | 3 => exact wordByte_packWord_three ..

/-- Settles O49: byte `4j + m` of the schedule is byte `m` of word `j`, which is the key's for `j` in 0..3. -/
theorem roundKeyZeroIsTheKey : Obligations.RoundKeyZeroIsTheKey := by
  rintro key w ⟨hkey, -⟩ n
  obtain ⟨j, m, hn⟩ : ∃ (j : BitVec 2) (m : Fin 4), n.val = 4 * j.toNat + m.val :=
    ⟨BitVec.ofNat 2 (n.val / 4), ⟨n.val % 4, by omega⟩, by simp; omega⟩
  have hj := j.isLt
  calc scheduleByte w ⟨n.val, by omega⟩
      _ = wordByte w[j.toNat] m := scheduleByte_eq_wordByte w (by omega) hn
      _ = wordByte (keyWord key j) m := by rw [hkey j]
      _ = key[n] := by simp only [wordByte_keyWord, ← hn]; rfl

end Sys2Proof.Machine
end

section
/-! SUPPORT. What the host's commands leave unchanged (spec/20_memory.md R56, R58). -/

namespace Sys2Proof.Machine

/-- A read after its range check and its state check: all three ways to end give an answer, or a fault, that does
not depend on the state the response is recorded in. -/
theorem checkedRead_answer (outOfRange notDone : Prop) [Decidable outOfRange] [Decidable notDone] {α : Type}
    (x : Except Fault α) (f : α → Response) :
    ∃ answer : Except Fault Response, ∀ u : State,
      (if outOfRange then .next (refuse .indexOutOfRange u)
        else if notDone then .next (refuse .notDone u)
        else outcomeOf do return respond (f (← x)) u) = outcomeOf do return respond (← answer) u := by
  by_cases hrange : outOfRange
  · exact ⟨.ok (.refused .indexOutOfRange), fun _ => if_pos hrange⟩
  by_cases hdone : notDone
  · exact ⟨.ok (.refused .notDone), fun _ => (if_neg hrange).trans (if_pos hdone)⟩
  · refine ⟨x.map f, fun u => ?_⟩
    rw [if_neg hrange, if_neg hdone]
    cases x <;> rfl

/-- The answer of a read does not depend on the responses given before it (R58). -/
theorem read_answer {x : Instr} (hx : isRead x) (s : State) :
    ∃ answer : Except Fault Response, ∀ given : List Response,
      exec x { s with responses := given } =
        outcomeOf do return respond (← answer) { s with responses := given } := by
  rcases hx with ⟨i, rfl⟩ | ⟨r, rfl⟩ | rfl
  · obtain ⟨answer, h⟩ := checkedRead_answer (43 < i.toNat) (s.st ≠ .done) (readSchedule i.toNat s)
      fun v => .ok (wordData v)
    exact ⟨answer, fun given => h { s with responses := given }⟩
  · obtain ⟨answer, h⟩ := checkedRead_answer (10 < r.toNat) (s.st ≠ .done) (readRoundKey r.toNat s) .ok
    exact ⟨answer, fun given => h { s with responses := given }⟩
  · exact ⟨.ok (.ok (statusData s)), fun _ => rfl⟩

/-- Settles O29: the read repeated meets the same fields, but for one more response given. -/
theorem readsChangeNoState : Obligations.ReadsChangeNoState := by
  intro x s t hx h
  obtain ⟨answer, hanswer⟩ := read_answer hx s
  rw [hanswer s.responses] at h
  cases answer with
  | error f => cases h
  | ok r =>
    cases h
    refine ⟨r, rfl, (hanswer (s.responses ++ [r])).trans ?_⟩
    simp [respond]

/-- Settles O24: `KPUSH` and both ends of `START` write only the fields their own rules name. -/
theorem kpushAndStartLeaveTheRest : Obligations.KpushAndStartLeaveTheRest := by
  rintro x s (⟨b, rfl⟩ | rfl)
  · exact ⟨_, rfl, rfl, rfl, rfl, rfl, rfl⟩
  by_cases hcount : s.kcnt = 16#5
  · exact ⟨_, if_pos hcount, rfl, rfl, rfl, rfl, rfl⟩
  · exact ⟨_, if_neg hcount, rfl, rfl, rfl, rfl, rfl⟩

end Sys2Proof.Machine
end

section
/-! SUPPORT. The two decoders on the bits the encoder gives, and the step a `BUSY` block decodes from `IDX`
(spec/30_encoding.md R80 to R96). -/

namespace Sys2Proof.Machine

/-! ### Command words decode by their opcode (R83) -/

theorem decodeCommand_commandWord {op : BitVec 4} (arg : BitVec 8) (h : legalOpcode op = true) :
    decodeCommand (commandWord op arg) = decodeOpcode op arg := by
  simp [decodeCommand, h]

@[simp] theorem decodeCommand_kpushWord (b : Byte) : decodeCommand (kpushWord b) = .ok (.kpush b) :=
  decodeCommand_commandWord b rfl

@[simp] theorem decodeCommand_startWord : decodeCommand startWord = .ok .start :=
  decodeCommand_commandWord 0#8 rfl

@[simp] theorem decodeCommand_rdwWord (i : BitVec 8) : decodeCommand (rdwWord i) = .ok (.rdw i) :=
  decodeCommand_commandWord i rfl

@[simp] theorem decodeCommand_rdrkWord (r : BitVec 8) : decodeCommand (rdrkWord r) = .ok (.rdrk r) :=
  decodeCommand_commandWord r rfl

@[simp] theorem decodeCommand_rdstWord : decodeCommand rdstWord = .ok .rdst :=
  decodeCommand_commandWord 0#8 rfl

/-! ### Indices decode by their fields (R90) -/

section
variable {i : Index}

theorem decodeIndex_copy (hj : roundField i = 0#4) : decodeIndex i = .ok (.ksCopy (positionField i)) :=
  if_pos hj

theorem decodeIndex_derived (hj : derivedRoundKey (roundField i) = true) :
    decodeIndex i = if positionField i = 0#2 then .ok (.ksG (roundField i))
      else .ok (.ksX (roundField i) (positionField i)) := by
  obtain ⟨hpos, hle⟩ := derivedRoundKey_iff.mp hj
  have hne : roundField i ≠ 0#4 := fun h => by simp [h] at hpos
  rw [decodeIndex, if_neg hne, if_pos hle]

theorem decodeIndex_ksG (hj : derivedRoundKey (roundField i) = true) (hk : positionField i = 0#2) :
    decodeIndex i = .ok (.ksG (roundField i)) :=
  (decodeIndex_derived hj).trans (if_pos hk)

theorem decodeIndex_ksX (hj : derivedRoundKey (roundField i) = true) (hk : positionField i ≠ 0#2) :
    decodeIndex i = .ok (.ksX (roundField i) (positionField i)) :=
  (decodeIndex_derived hj).trans (if_neg hk)

theorem decodeIndex_pastTheSteps (h : 44 ≤ i.toNat) :
    decodeIndex i = if i = 44#6 then .error .expansionComplete else .error .badIndex := by
  have hround : ¬ (roundField i).toNat ≤ 10 := by rw [roundField_toNat]; omega
  have hne : roundField i ≠ 0#4 := fun e => hround (by simp [e])
  rw [decodeIndex, if_neg hne, if_neg hround]

/-- An index that decodes gives a well-formed step kind. -/
theorem wellFormed_of_decodeIndex {x : Instr} (h : decodeIndex i = .ok x) : x.wellFormed = true := by
  rcases decodeIndex_ok h with ⟨k, rfl, -⟩ | ⟨j, rfl, hj, -⟩ | ⟨j, k, rfl, hj, hk, -⟩
  · rfl
  · exact hj
  · simp [Instr.wellFormed, hj, hk]

end

/-! ### Decoding and encoding are inverse -/

theorem decode_encode {x : Instr} (h : x.wellFormed = true) : decode (encode x) = .ok x := by
  cases x with
  | kpush b => exact decodeCommand_kpushWord b
  | start => exact decodeCommand_startWord
  | rdw i => exact decodeCommand_rdwWord i
  | rdrk r => exact decodeCommand_rdrkWord r
  | rdst => exact decodeCommand_rdstWord
  | ksCopy k => simpa [decode, encode] using decodeIndex_copy (roundField_append 0#4 k)
  | ksG j =>
    have hj : derivedRoundKey j = true := h
    simpa [decode, encode] using decodeIndex_ksG (i := j ++ 0#2) (by simpa using hj) (by simp)
  | ksX j k =>
    obtain ⟨hj, hk⟩ : derivedRoundKey j = true ∧ k ≠ 0#2 := by simpa [Instr.wellFormed] using h
    simpa [decode, encode] using decodeIndex_ksX (i := j ++ k) (by simpa using hj) (by simpa using hk)

theorem encode_of_decodeCommand {w : CommandWord} {x : Instr} (h : decodeCommand w = .ok x) :
    encode x = .command w := by
  obtain ⟨hrsv, hop⟩ := decodeCommand_ok h
  rw [← commandWord_fields w hrsv]
  rcases hop with ⟨hop, rfl⟩ | ⟨hop, harg, rfl⟩ | ⟨hop, rfl⟩ | ⟨hop, rfl⟩ | ⟨hop, harg, rfl⟩
  · rw [hop]; rfl
  · rw [hop, harg]; rfl
  · rw [hop]; rfl
  · rw [hop]; rfl
  · rw [hop, harg]; rfl

theorem encode_of_decodeIndex {i : Index} {x : Instr} (h : decodeIndex i = .ok x) : encode x = .index i := by
  rcases decodeIndex_ok h with ⟨k, rfl, rfl⟩ | ⟨j, rfl, -, rfl⟩ | ⟨j, k, rfl, -, -, rfl⟩ <;> rfl

/-- Settles O2: the operand range of the two read commands is not the decoder's to check (R85 (d)). -/
theorem decodeOfEncodeIsTheOperation : Obligations.DecodeOfEncodeIsTheOperation :=
  ⟨fun _ => decode_encode, decodeCommand_rdwWord, decodeCommand_rdrkWord⟩

/-- Settles O3: for each of the two formats. -/
theorem decodedBitsAreTheEncoding : Obligations.DecodedBitsAreTheEncoding := by
  refine ⟨fun e x h => ?_, fun _ _ => wellFormed_of_decodeIndex⟩
  cases e with
  | command w => exact encode_of_decodeCommand h
  | index i => exact encode_of_decodeIndex h

/-- Settles O1: each of the words and patterns is the encoding of a well-formed operation. -/
theorem specWordsDecodeToTheirOperations : Obligations.SpecWordsDecodeToTheirOperations :=
  ⟨decode_encode (x := .kpush 0x2b#8) rfl, decode_encode (x := .start) rfl, decode_encode (x := .rdw 43#8) rfl,
    decode_encode (x := .rdrk 10#8) rfl, decode_encode (x := .rdst) rfl, decode_encode (x := .ksCopy 3#2) rfl,
    decode_encode (x := .ksG 1#4) rfl, decode_encode (x := .ksX 1#4 3#2) rfl,
    decode_encode (x := .ksG 10#4) rfl, decode_encode (x := .ksX 10#4 3#2) rfl⟩

/-! ### Scripts (R96) -/

theorem map_decodeCommand_keyScript (bytes : List Byte) :
    (keyScript bytes).map decodeCommand = bytes.map fun b => .ok (.kpush b) := by
  simp [keyScript]

/-- Settles O5: the words of a script decode one by one. -/
theorem pseudoInstructionsExpand : Obligations.PseudoInstructionsExpand := by
  refine ⟨fun bytes => ⟨map_decodeCommand_keyScript bytes, ?_⟩, ?_⟩
  · simp [expandScript, map_decodeCommand_keyScript]
  · simp [readScheduleScript]

/-! ### Response records (R81) -/

theorem record_toNat (r : Response) :
    r.record.toNat = r.kind.toNat * 2 ^ 132 + r.code.toNat * 2 ^ 128 + r.data.toNat := by
  have happend {m n : Nat} (x : BitVec m) (y : BitVec n) : (x ++ y).toNat = x.toNat * 2 ^ n + y.toNat := by
    rw [BitVec.toNat_append, ← Nat.shiftLeft_add_eq_or_of_lt y.isLt, Nat.shiftLeft_eq]
  calc r.record.toNat
      _ = (r.kind ++ r.code).toNat * 2 ^ 128 + r.data.toNat := happend _ _
      _ = _ := by rw [happend]; omega

/-- Settles O4: kind, code and data of each response. -/
theorem responseRecordFields : Obligations.ResponseRecordFields := by
  refine ⟨fun d => ?_, ?_, ?_, ?_, ?_, ?_⟩ <;> rw [record_toNat]
  · simp [Response.kind, Response.code, Response.data]
  all_goals rfl

/-! ### The step of a `BUSY` block (R90, R91, R150) -/

section
variable {s : State} (hr : resetAsserted s = false) (hb : s.st = .busy)
include hr hb

theorem step_busy_of_decodeIndex_ok {x : Instr} (hd : decodeIndex s.idx = .ok x) :
    step s = exec x { s with resetIn := s.resetIn.drop 1 } := by
  simp [step, hr, fetch_busy hb, decode, hd, consume_busy hb]

theorem step_busy_of_decodeIndex_error {r : DecodeReject} (hd : decodeIndex s.idx = .error r) :
    step s = reject r { s with resetIn := s.resetIn.drop 1 } := by
  simp [step, hr, fetch_busy hb, decode, hd, consume_busy hb]

end

theorem roundField_eq_ofNat (i : Index) : roundField i = BitVec.ofNat 4 (i.toNat / 4) := by
  rw [← roundField_toNat, BitVec.ofNat_toNat, BitVec.setWidth_eq]

theorem positionField_eq_ofNat (i : Index) : positionField i = BitVec.ofNat 2 (i.toNat % 4) := by
  rw [← positionField_toNat, BitVec.ofNat_toNat, BitVec.setWidth_eq]

theorem positionField_eq_zero_iff {i : Index} : positionField i = 0#2 ↔ i.toNat % 4 = 0 := by
  rw [← positionField_toNat, BitVec.toNat_eq, BitVec.toNat_ofNat, Nat.zero_mod]

theorem derivedRoundKey_roundField {i : Index} (h4 : 4 ≤ i.toNat) (h43 : i.toNat ≤ 43) :
    derivedRoundKey (roundField i) = true := by
  rw [derivedRoundKey_iff, roundField_toNat]
  omega

/-- Settles O7: the fields of `IDX` are its quotient and remainder by 4. -/
theorem stepKindFollowsTheIndex : Obligations.StepKindFollowsTheIndex := by
  intro s hr hb
  refine ⟨fun h3 => ?_, fun h4 h43 hk => ?_, fun h4 h43 hk => ?_⟩ <;>
    apply step_busy_of_decodeIndex_ok hr hb
  · have hround : roundField s.idx = 0#4 := by
      rw [roundField_eq_ofNat, Nat.div_eq_of_lt (by omega)]
    rw [decodeIndex_copy hround, positionField_eq_ofNat, Nat.mod_eq_of_lt (by omega)]
  · rw [decodeIndex_ksG (derivedRoundKey_roundField h4 h43) (positionField_eq_zero_iff.mpr hk),
      roundField_eq_ofNat]
  · rw [decodeIndex_ksX (derivedRoundKey_roundField h4 h43) (mt positionField_eq_zero_iff.mp hk),
      roundField_eq_ofNat, positionField_eq_ofNat]

/-- Settles O8: from 44 on the decoder rejects the index. -/
theorem busyOutsideTheStepsIsAFault : Obligations.BusyOutsideTheStepsIsAFault := by
  intro s hr hb
  refine ⟨fun h45 => ?_, fun h44 => ?_⟩
  · have hne : s.idx ≠ 44#6 := fun e => by simp [e] at h45
    exact step_busy_of_decodeIndex_error hr hb ((decodeIndex_pastTheSteps (by omega)).trans (if_neg hne))
  · have heq : s.idx = 44#6 := BitVec.eq_of_toNat_eq h44
    exact step_busy_of_decodeIndex_error hr hb ((decodeIndex_pastTheSteps (by omega)).trans (if_pos heq))

end Sys2Proof.Machine
end

section
/-! SUPPORT. The S-box table against its definition (spec/40_sbox.md R111, R112): undoing the affine map on an entry
leaves the inverse of its index, and inversion undoes itself. -/

namespace Sys2Proof.Machine

/-- The affine map that undoes `sboxAffine`. -/
def sboxAffineInv (c : Byte) : Byte := c.rotateLeft 1 ^^^ c.rotateLeft 3 ^^^ c.rotateLeft 6 ^^^ 0x05#8

theorem sboxAffine_sboxAffineInv : ∀ c : Byte, sboxAffine (sboxAffineInv c) = c := by decide +kernel

/-- The byte `b` from which R112 computes entry `a` of the table. -/
def sboxInverse (a : Byte) : Byte := sboxAffineInv (sbox a)

theorem sbox_eq_sboxAffine_sboxInverse (a : Byte) : sbox a = sboxAffine (sboxInverse a) :=
  (sboxAffine_sboxAffineInv (sbox a)).symm

theorem sboxInverse_zero : sboxInverse 0#8 = 0#8 := by decide

theorem gfMul_sboxInverse : ∀ a : Byte, a ≠ 0#8 → gfMul a (sboxInverse a) = 1#8 := by decide +kernel

theorem isGfInverse_sboxInverse (a : Byte) : IsGfInverse a (sboxInverse a) := by
  unfold IsGfInverse
  split
  case isTrue ha => rw [ha, sboxInverse_zero]
  case isFalse ha => exact gfMul_sboxInverse a ha

/-- Settles O40: each entry is the affine map of the inverse of its index. -/
theorem sboxTableIsItsDefinition : Obligations.SboxTableIsItsDefinition :=
  fun a => ⟨sboxInverse a, isGfInverse_sboxInverse a, sbox_eq_sboxAffine_sboxInverse a⟩

theorem sboxInverse_involutive : Function.Involutive sboxInverse := by
  unfold Function.Involutive
  decide +kernel

/-- Two equal entries have indices with one inverse (R111). -/
theorem sbox_injective : Function.Injective sbox :=
  Function.Injective.of_comp (f := sboxAffineInv) sboxInverse_involutive.injective

theorem sbox_ne_self : ∀ a : Byte, sbox a ≠ a := by decide +kernel

theorem sbox_ne_complement : ∀ a : Byte, sbox a ≠ ~~~a := by decide +kernel

/-- Settles O41: no two entries agree, and no entry is its index or the index's complement. -/
theorem sboxTableChecks : Obligations.SboxTableChecks :=
  ⟨fun _ _ h => sbox_injective h, fun a => ⟨sbox_ne_self a, sbox_ne_complement a⟩⟩

end Sys2Proof.Machine
end

section
/-! SUPPORT. The known answer (spec/95_test_vectors.md 1.1): a schedule that meets the recurrence is the one
`expand` computes, so its words are found by running `expand`. -/

namespace Sys2Proof.Machine

/-- The words at the given indices of the schedule that `expand` computes. -/
def expandedWords (key : Vector Byte 16) (is : List (Fin 44)) : Option (List (Option Word)) :=
  (expand key).map fun ws => is.map (ws[·.val]?)

theorem expandedWords_of_isExpansion {key : Vector Byte 16} {w : Vector Word 44} (h : IsExpansion key w)
    (is : List (Fin 44)) : expandedWords key is = some (is.map fun i => some w[i]) := by
  simp [expandedWords, isExpansion_iff_expand.mp h]

/-- Word 4 and round key 10 of the key of the source document. -/
theorem expandedWords_sourceKey :
    expandedWords
        #v[0x2b, 0x7e, 0x15, 0x16, 0x28, 0xae, 0xd2, 0xa6, 0xab, 0xf7, 0x15, 0x88, 0x09, 0xcf, 0x4f, 0x3c]
        [4, 40, 41, 42, 43] =
      some [some 0xa0fafe17#32, some 0xd014f9a8#32, some 0xc9ee2589#32, some 0xe13f0cc8#32, some 0xb6630ca6#32] := by
  decide +kernel

/-- Settles O50: the words in question are those `expand` gives, and the packing puts them side by side. -/
theorem knownAnswerTest : Obligations.KnownAnswerTest := by
  intro w h
  have hwords := (expandedWords_of_isExpansion h [4, 40, 41, 42, 43]).symm.trans expandedWords_sourceKey
  obtain ⟨h4, h40, h41, h42, h43⟩ :
      w[4] = 0xa0fafe17#32 ∧ w[40] = 0xd014f9a8#32 ∧ w[41] = 0xc9ee2589#32 ∧ w[42] = 0xe13f0cc8#32 ∧
        w[43] = 0xb6630ca6#32 := by
    simpa using hwords
  refine ⟨?_, h4⟩
  rw [h40, h41, h42, h43]
  decide

end Sys2Proof.Machine
end

section
/-! SUPPORT. The bytes of the datapath functions `RotWord`, `SubWord`, `RconXor`, `G` and `T`
(spec/41_rotword_subword.md R120 to R124). -/

namespace Sys2Proof.Machine

/-- Byte `m` of four packed bytes is byte number `m` of them (R52). -/
theorem wordByte_packWord (b : Fin 4 → Byte) (m : Fin 4) :
    wordByte (packWord (b 0) (b 1) (b 2) (b 3)) m = b m := by
  match m with
  | 0 => exact wordByte_packWord_zero ..
  | 1 => exact wordByte_packWord_one ..
  | 2 => exact wordByte_packWord_two ..
  | 3 => exact wordByte_packWord_three ..

/-! ### RotWord (R120) -/

/-- The byte positions are counted modulo 4: byte 3 of the result is byte 0 of the word. -/
@[simp] theorem wordByte_rotWord (w : Word) (m : Fin 4) : wordByte (rotWord w) m = wordByte w (m + 1) :=
  wordByte_packWord (fun m => wordByte w (m + 1)) m

/-- Rotating left by 8 bits moves each byte one position towards byte 0, and byte 0 to position 3. -/
theorem wordByte_rotateLeft_eight (w : Word) (m : Fin 4) :
    wordByte (w.rotateLeft 8) m = wordByte w (m + 1) := by
  apply BitVec.eq_of_getLsbD_eq
  intro i hi
  rw [wordByte_getLsbD, wordByte_getLsbD, BitVec.getLsbD_rotateLeft]
  by_cases h3 : m = 3
  · subst h3
    simp [hi]
  · have hstays : ¬ 24 - 8 * m.val + i < 8 := by omega
    have hrange : 24 - 8 * m.val + i < 32 := by omega
    have hbit : 24 - 8 * m.val + i - 8 = 24 - 8 * (m + 1).val + i := by omega
    simp [hi, hstays, hrange, hbit]

theorem rotWord_eq_rotateLeft (w : Word) : rotWord w = w.rotateLeft 8 :=
  word_ext fun m => (wordByte_rotWord w m).trans (wordByte_rotateLeft_eight w m).symm

theorem rotWord_four_times (w : Word) : rotWord (rotWord (rotWord (rotWord w))) = w := by
  apply word_ext
  intro m
  have hm : m + 1 + 1 + 1 + 1 = m := by omega
  simp only [wordByte_rotWord, hm]

theorem rotWord_packWord_equal (b : Byte) : rotWord (packWord b b b b) = packWord b b b b := by
  have hbyte (m : Fin 4) : wordByte (packWord b b b b) m = b := wordByte_packWord (fun _ => b) m
  apply word_ext
  simp [hbyte]

/-- Settles O36: byte `m` of the result is byte `m + 1` of the word, positions counted modulo 4. -/
theorem rotWordRotatesLeftByOneByte : Obligations.RotWordRotatesLeftByOneByte := fun w =>
  ⟨rotWord_eq_rotateLeft w, wordByte_rotWord w 0, wordByte_rotWord w 1, wordByte_rotWord w 2,
    wordByte_rotWord w 3, rotWord_four_times w, rotWord_packWord_equal⟩

/-! ### SubWord (R121) -/

@[simp] theorem wordByte_subWord (w : Word) (m : Fin 4) : wordByte (subWord w) m = sbox (wordByte w m) :=
  wordByte_packWord (fun m => sbox (wordByte w m)) m

theorem subWord_rotWord (w : Word) : subWord (rotWord w) = rotWord (subWord w) := by
  apply word_ext
  simp

/-- Settles O37: lane by lane; the two corner words are evaluated. -/
theorem subWordActsOnEachByte : Obligations.SubWordActsOnEachByte := fun w =>
  ⟨wordByte_subWord w, subWord_rotWord w, by decide, by decide⟩

/-! ### The Rcon entries (R34, R123) -/

theorem rcon_exists {j : BitVec 4} (h1 : 1 ≤ j.toNat) (h10 : j.toNat ≤ 10) : ∃ c, rcon j = some c := by
  rw [← Option.isSome_iff_exists, rcon_isSome, derivedRoundKey_iff]
  exact ⟨h1, h10⟩

theorem rcon_eq_none {j : BitVec 4} (h : j.toNat = 0 ∨ 11 ≤ j.toNat) : rcon j = none := by
  have hj : ¬ (rcon j).isSome := by
    rw [rcon_isSome, derivedRoundKey_iff]
    omega
  simpa using hj

theorem rcon_next : ∀ j : BitVec 4, 1 ≤ j.toNat → j.toNat ≤ 9 → rcon (j + 1#4) = (rcon j).map xtime := by
  decide

/-- Settles O42: the ten entries and their doublings are evaluated. -/
theorem rconEntriesDouble : Obligations.RconEntriesDouble :=
  ⟨by decide, rcon_next, fun _ => rcon_eq_none⟩

/-! ### RconXor (R122) -/

theorem rconXor_of_rcon {w : Word} {j : BitVec 4} {c : Byte} (h : rcon j = some c) :
    rconXor w j = some (xorWord w (packWord c 0#8 0#8 0#8)) :=
  rconXor_eq_some.mpr ⟨c, h, rfl⟩

/-- Settles O38: the constant is packed with three zero bytes, which the combine leaves as they are. -/
theorem rconXorTouchesOnlyTheFirstByte : Obligations.RconXorTouchesOnlyTheFirstByte := by
  refine fun w j => ⟨fun h1 h10 => ?_, fun h => by rw [rconXor, rcon_eq_none h, Option.map_none]⟩
  obtain ⟨c, hc⟩ := rcon_exists h1 h10
  exact ⟨_, c, rconXor_of_rcon hc, hc, by simp, by simp, by simp, by simp⟩

/-! ### The transform (R124) -/

/-- `G` byte by byte. -/
theorem gWord_of_rcon {t : Word} {j : BitVec 4} {c : Byte} (h : rcon j = some c) :
    gWord t j = some (packWord (sbox (wordByte t 1) ^^^ c) (sbox (wordByte t 2)) (sbox (wordByte t 3))
      (sbox (wordByte t 0))) := by
  rw [gWord, rconXor_of_rcon h, Option.some.injEq]
  apply word_ext
  intro m
  match m with
  | 0 | 1 | 2 | 3 => simp

theorem transformAt_of_multiple {i : Nat} (h : i % 4 = 0) (t : Word) :
    transformAt i t = gWord t (BitVec.ofNat 4 (i / 4)) := if_pos h

theorem transformAt_of_not_multiple {i : Nat} (h : i % 4 ≠ 0) (t : Word) : transformAt i t = some t := if_neg h

/-- Settles O39: for `i` in 4..43 the quotient `i / 4` is one of 1..10, where `RCON` has an entry. -/
theorem transformAppliesGOnlyAtMultiplesOfFour : Obligations.TransformAppliesGOnlyAtMultiplesOfFour := by
  refine fun i t h4 h43 => ⟨fun h => ?_, fun h => transformAt_of_not_multiple h t⟩
  have hj : (BitVec.ofNat 4 (i / 4)).toNat = i / 4 := by
    rw [BitVec.toNat_ofNat, Nat.mod_eq_of_lt (by omega)]
  obtain ⟨c, hc⟩ := rcon_exists (j := BitVec.ofNat 4 (i / 4)) (by omega) (by omega)
  exact ⟨_, c, (transformAt_of_multiple h t).trans (gWord_of_rcon hc), hc, rfl⟩

end Sys2Proof.Machine
end

section
/-! SUPPORT. What a derived step of either kind does through the stages `S0` to `S4`, and what it leaves in the hidden
registers (spec/41_rotword_subword.md R124, R125). -/

namespace Sys2Proof.Machine

/-! ### The index of a step kind selects its transform -/

theorem transformAt_ksG (j : BitVec 4) (t : Word) : transformAt (stepIndex j 0#2).toNat t = gWord t j := by
  have hindex : (stepIndex j 0#2).toNat = 4 * j.toNat := by simp [stepIndex_toNat]
  rw [hindex, transformAt_of_multiple (Nat.mul_mod_right 4 _), Nat.mul_div_cancel_left _ (by decide),
    BitVec.ofNat_toNat, BitVec.setWidth_eq]

theorem transformAt_ksX {k : BitVec 2} (hk : k ≠ 0#2) (j : BitVec 4) (t : Word) :
    transformAt (stepIndex j k).toNat t = some t := by
  have hpos : k.toNat ≠ 0 := fun h => hk (BitVec.eq_of_toNat_eq h)
  have hlt := k.isLt
  apply transformAt_of_not_multiple
  rw [stepIndex_toNat]
  omega

/-! ### The derived steps -/

/-- A derived step of either kind has fetched `W[i-1]` and `W[i-4]`, transformed the first by `T(i, ·)` and combined
it with the second; the two registers keep what `S4` combined. -/
theorem derivedStep_next {s t : State} {i : Index} {x : Instr} (hd : decodeIndex i = .ok x)
    (hx : ∀ k, x ≠ .ksCopy k) (h : exec x s = .next t) :
    4 ≤ i.toNat ∧ ∃ a b v, ∃ hi : i.toNat < 44,
      readSchedule (prevIndex i).toNat s = .ok a ∧ readSchedule (backIndex i).toNat s = .ok b ∧
      transformAt i.toNat a = some v ∧ t = afterWrite i.toNat hi (xorWord b v) v b s := by
  rcases decodeIndex_ok hd with ⟨k, rfl, -⟩ | ⟨j, rfl, hj, rfl⟩ | ⟨j, k, rfl, hj, hk, rfl⟩
  · exact absurd rfl (hx k)
  · obtain ⟨a, b, v, hi, ha, hb, hv, ht⟩ := execKsG_next h
    exact ⟨(stepIndex_derived _ hj).1, a, b, v, hi, ha, hb, (transformAt_ksG j a).trans hv, ht⟩
  · obtain ⟨a, b, hi, ha, hb, ht⟩ := execKsX_next h
    exact ⟨(stepIndex_derived _ hj).1, a, b, a, hi, ha, hb, transformAt_ksX hk j a, ht⟩

@[simp] theorem afterWrite_temp (n : Nat) (h : n < 44) (v temp p : Word) (s : State) :
    (afterWrite n h v temp p s).temp = temp := rfl

@[simp] theorem afterWrite_p (n : Nat) (h : n < 44) (v temp p : Word) (s : State) :
    (afterWrite n h v temp p s).p = p := rfl

/-- Settles O33: `W[i-4]` was read from the state before the step, and `S4` combined it with `TEMP`. -/
theorem derivedStepsLoadThePipeline : Obligations.DerivedStepsLoadThePipeline := by
  intro x s t hr hb hd hx h
  rw [step_busy_of_decodeIndex_ok hr hb hd] at h
  obtain ⟨h4, a, b, v, hi, -, hback, -, rfl⟩ := derivedStep_next hd hx h
  refine ⟨h4, fun n m hn hm => ?_⟩
  obtain ⟨_, _, rfl⟩ := readSchedule_ok.mp hback
  have hindex : (backIndex s.idx).toNat = m.val := by rw [backIndex_toNat h4]; omega
  constructor
  · simp [hindex]
  · simp [hn]

end Sys2Proof.Machine
end

section
/-! SUPPORT. What a step kind of the sequencer computes when the words it reads are written, and what it leaves
unchanged (spec/43_sequencer.md R151 to R154). -/

namespace Sys2Proof.Machine

variable {s t : State}

/-! ### The word written and the frame (R151) -/

@[simp] theorem afterWrite_port (n : Nat) (h : n < 44) (v temp p : Word) (s : State) :
    (afterWrite n h v temp p s).port = s.port := rfl

@[simp] theorem afterWrite_resetIn (n : Nat) (h : n < 44) (v temp p : Word) (s : State) :
    (afterWrite n h v temp p s).resetIn = s.resetIn := rfl

@[simp] theorem afterWrite_responses (n : Nat) (h : n < 44) (v temp p : Word) (s : State) :
    (afterWrite n h v temp p s).responses =
      if s.idx = 43#6 then s.responses ++ [.ok 0#128] else s.responses := rfl

theorem sequencerFrame_afterWrite (n : Nat) (h : n < 44) (v temp p : Word) (s : State) :
    SequencerFrame n s (afterWrite n h v temp p s) where
  otherWords m hm := by simp [Vector.getElem_set_ne _ _ (Ne.symm hm)]
  k := rfl
  kcnt := rfl
  err := rfl
  port := rfl
  resetIn := rfl
  idx := rfl
  st := rfl
  responses := rfl

/-- Settles O30: the word written is word `k` of the key. -/
theorem ksCopyCopiesTheKeyWord : Obligations.KsCopyCopiesTheKeyWord := by
  refine fun k s => ⟨_, execKsCopy_eq k s, fun n m b hn hb => ?_, sequencerFrame_afterWrite .., rfl, rfl⟩
  simp [hn, hb, wordByte_keyWord]

/-- Settles O35: a step of a `BUSY` block is the write of the word at `IDX` and the common tail. -/
theorem sequencerStepWritesOneWord : Obligations.SequencerStepWritesOneWord := by
  intro s t hr hb h
  obtain ⟨v, temp, p, hi, rfl⟩ := busyStep_next hr hb h
  have hframe := sequencerFrame_afterWrite s.idx.toNat hi v temp p { s with resetIn := s.resetIn.drop 1 }
  exact ⟨by omega, fun n hn => by simp [hn], hframe.otherWords, by simp [hb], hframe.idx, hframe.k, hframe.kcnt,
    hframe.err⟩

/-! ### The derived steps, when both source words are written (R153, R154) -/

/-- `S0` at index `n` loads `W[n-1]` and `W[n-4]`. -/
theorem fetchSources_written {i : Index} {n : Nat} (hn : i.toNat = n) (h4 : 4 ≤ n) (h44 : n < 44)
    (hprev : s.wv[n - 1] = true) (hback : s.wv[n - 4] = true) :
    fetchSources i s = .ok { s with temp := s.w[n - 1], p := s.w[n - 4] } := by
  have hi : (prevIndex i).toNat = n - 1 ∧ (backIndex i).toNat = n - 4 :=
    ⟨by rw [prevIndex_toNat (by omega), hn], by rw [backIndex_toNat (by omega), hn]⟩
  rw [fetchSources_ok, hi.1, hi.2]
  exact ⟨_, _, readSchedule_written _ hprev, readSchedule_written _ hback, rfl⟩

theorem execKsG_written {j : BitVec 4} {n : Nat} (hn : (stepIndex j 0#2).toNat = n) (h4 : 4 ≤ n) (h44 : n < 44)
    (hprev : s.wv[n - 1] = true) (hback : s.wv[n - 4] = true) {v : Word} (hv : gWord s.w[n - 1] j = some v) :
    execKsG j s = .next (afterWrite n h44 (xorWord s.w[n - 4] v) v s.w[n - 4] s) := by
  subst hn
  simp only [execKsG, outcomeOf_next, bind_ok, pure_eq_ok, Except.ok.injEq]
  exact ⟨_, fetchSources_written rfl h4 h44 hprev hback, _, injectRcon_ok.mpr ⟨v, hv, rfl⟩, _,
    combineInto_ok.mpr ⟨h44, rfl⟩, rfl⟩

theorem execKsX_written {j : BitVec 4} {k : BitVec 2} {n : Nat} (hn : (stepIndex j k).toNat = n) (h4 : 4 ≤ n)
    (h44 : n < 44) (hprev : s.wv[n - 1] = true) (hback : s.wv[n - 4] = true) :
    execKsX j k s = .next (afterWrite n h44 (xorWord s.w[n - 4] s.w[n - 1]) s.w[n - 1] s.w[n - 4] s) := by
  subst hn
  simp only [execKsX, outcomeOf_next, bind_ok, pure_eq_ok, Except.ok.injEq]
  exact ⟨_, fetchSources_written rfl h4 h44 hprev hback, _, combineInto_ok.mpr ⟨h44, rfl⟩, rfl⟩

/-- Settles O31: `G` byte by byte, combined with `W[i-4]`. -/
theorem ksGMakesTheFirstWord : Obligations.KsGMakesTheFirstWord := by
  intro j s h1 h10 hprev hback
  obtain ⟨c, hc⟩ := rcon_exists h1 h10
  have hn : (stepIndex j 0#2).toNat = 4 * j.toNat := by simp [stepIndex_toNat]
  refine ⟨_, c, execKsG_written hn (by omega) (by omega) hprev hback (gWord_of_rcon hc), hc,
    ⟨by simp, by simp, by simp, by simp, by simp [xorWord]⟩, by simp, sequencerFrame_afterWrite ..⟩

/-- Settles O32: `S4` combines the two words as `S0` fetched them. -/
theorem ksXMakesTheOtherWords : Obligations.KsXMakesTheOtherWords := by
  intro j k s h1 h10 hk _ hprev hback
  refine ⟨_, execKsX_written (stepIndex_toNat j k) (by omega) (by omega) hprev hback, by simp [xorWord], by simp, rfl,
    sequencerFrame_afterWrite ..⟩

end Sys2Proof.Machine
end

section
/-! SUPPORT. The steps of an expansion: each writes the next word of the schedule of the key, and an accepted `START`
followed by 44 of them computes `Expand` of it (spec/43_sequencer.md R155, R156, R160). -/

namespace Sys2Proof.Machine

variable {s t : State}

/-! ### One step of an expansion -/

/-- At every index of a derived word a step kind is decoded, and it computes the word of R160 from source words that
are written. -/
theorem exec_derived_written {i : Index} (h4 : 4 ≤ i.toNat) (h44 : i.toNat < 44)
    (hprev : s.wv[i.toNat - 1] = true) (hback : s.wv[i.toNat - 4] = true) {v : Word}
    (hv : transformAt i.toNat s.w[i.toNat - 1] = some v) :
    ∃ x, decodeIndex i = .ok x ∧
      exec x s = .next (afterWrite i.toNat h44 (xorWord s.w[i.toNat - 4] v) v s.w[i.toNat - 4] s) := by
  have hround := derivedRoundKey_roundField h4 (Nat.le_of_lt_succ h44)
  have hfields : stepIndex (roundField i) (positionField i) = i := index_fields i
  by_cases hk : positionField i = 0#2
  · rw [hk] at hfields
    rw [transformAt_of_multiple (positionField_eq_zero_iff.mp hk), ← roundField_eq_ofNat] at hv
    exact ⟨_, decodeIndex_ksG hround hk, execKsG_written (by rw [hfields]) h4 h44 hprev hback hv⟩
  · rw [transformAt_of_not_multiple (mt positionField_eq_zero_iff.mpr hk), Option.some.injEq] at hv
    subst hv
    exact ⟨_, decodeIndex_ksX hround hk, execKsX_written (by rw [hfields]) h4 h44 hprev hback⟩

/-- The step kind decoded at an index writes the word that R160 makes from the words before it. -/
theorem exec_writes_nextScheduleWord {i : Index} (h44 : i.toNat < 44)
    (hbelow : ∀ m : Fin 44, m.val < i.toNat → s.wv[m] = true) {v : Word}
    (hv : nextScheduleWord s.k (s.w.toList.take i.toNat) i.toNat = some v) :
    ∃ x temp p, decodeIndex i = .ok x ∧ exec x s = .next (afterWrite i.toNat h44 v temp p s) := by
  by_cases h4 : i.toNat < 4
  · have hround : roundField i = 0#4 := by rw [roundField_eq_ofNat, Nat.div_eq_of_lt h4]
    have hk : (positionField i).toNat = i.toNat := by rw [positionField_toNat, Nat.mod_eq_of_lt h4]
    rw [nextScheduleWord_copied h4, Option.some.injEq, ← hk, BitVec.ofNat_toNat, BitVec.setWidth_eq] at hv
    have hexec := execKsCopy_eq (positionField i) s
    simp only [hk, hv] at hexec
    exact ⟨_, _, _, decodeIndex_copy hround, hexec⟩
  · have h4 : 4 ≤ i.toNat := Nat.not_lt.mp h4
    obtain ⟨u, hu, rfl⟩ := (nextScheduleWord_derived h4 (by simp [h44.le])).mp hv
    simp only [List.getElem_take, Vector.getElem_toList] at hu ⊢
    have hprev := hbelow ⟨i.toNat - 1, by omega⟩ (Nat.sub_lt (by omega) (by decide))
    have hback := hbelow ⟨i.toNat - 4, by omega⟩ (Nat.sub_lt (by omega) (by decide))
    obtain ⟨x, hx, hexec⟩ := exec_derived_written h4 h44 hprev hback hu
    exact ⟨x, _, _, hx, hexec⟩

/-- A `BUSY` block cannot stop: its step writes the next word of the schedule (R150, R155, R160). -/
theorem step_busy_writes_nextScheduleWord (h : Inv s) (hr : resetAsserted s = false) (hb : s.st = .busy) :
    ∃ v temp p, ∃ hi : s.idx.toNat < 44,
      nextScheduleWord s.k (s.w.toList.take s.idx.toNat) s.idx.toNat = some v ∧
      step s = .next (afterWrite s.idx.toNat hi v temp p { s with resetIn := s.resetIn.drop 1 }) := by
  obtain ⟨h43, hflags⟩ := h.partialSchedule hb
  have hi : s.idx.toNat < 44 := Nat.lt_succ_of_le h43
  have hlen : (s.w.toList.take s.idx.toNat).length = s.idx.toNat := by simp [hi.le]
  obtain ⟨v, hv⟩ := nextScheduleWord_exists s.k (before := s.w.toList.take s.idx.toNat) (by omega)
  rw [hlen] at hv
  obtain ⟨x, temp, p, hd, hexec⟩ := exec_writes_nextScheduleWord
    (s := { s with resetIn := s.resetIn.drop 1 }) hi (fun m => (hflags m).mpr) hv
  exact ⟨v, temp, p, hi, hv, (step_busy_of_decodeIndex_ok hr hb hd).trans hexec⟩

theorem step_busy_advances (h : Inv s) (hr : resetAsserted s = false) (hb : s.st = .busy) :
    ∃ t, step s = .next t ∧ t.resetIn = s.resetIn.drop 1 ∧ t.idx.toNat = s.idx.toNat + 1 ∧
      t.st = if s.idx.toNat = 43 then .done else .busy := by
  obtain ⟨v, temp, p, hi, -, hstep⟩ := step_busy_writes_nextScheduleWord h hr hb
  have h43 : s.idx = 43#6 ↔ s.idx.toNat = 43 := BitVec.toNat_inj.symm
  have hnext : s.idx.toNat < 63 := by omega
  exact ⟨_, hstep, rfl, nextIndex_toNat hnext, by simp [hb, h43]⟩

/-! ### Runs -/

theorem runSteps_succ (h : step s = .next t) (n : Nat) : runSteps (n + 1) s = runSteps n t := by
  simp [runSteps, Host.Core.run, core, h]

theorem QuietFor.resetAsserted_eq_false {n : Nat} (h : QuietFor (n + 1) s) : resetAsserted s = false := by
  unfold resetAsserted
  cases hs : s.resetIn with
  | nil => rfl
  | cons b rest => exact h b (by simp [hs])

theorem QuietFor.next {n : Nat} (h : QuietFor (n + 1) s) (ht : t.resetIn = s.resetIn.drop 1) : QuietFor n t := by
  intro b hb
  rw [ht, List.take_drop] at hb
  exact h b (by rw [Nat.add_comm]; exact List.mem_of_mem_drop hb)

/-- An expansion advances one index a step until it is complete, and along the way keeps every property `P` that its
steps keep (R155, R156). -/
theorem runSteps_busy {P : State → Prop}
    (hP : ∀ u v, Inv u → resetAsserted u = false → u.st = .busy → P u → step u = .next v → P v) {n : Nat}
    (hs : Inv s) (hb : s.st = .busy) (hn : s.idx.toNat + n ≤ 44) (hq : QuietFor n s) (hPs : P s) :
    ∃ t, runSteps n s = .next t ∧ Inv t ∧ P t ∧ t.idx.toNat = s.idx.toNat + n ∧
      (s.idx.toNat + n < 44 → t.st = .busy) ∧ (s.idx.toNat + n = 44 → t.st = .done) := by
  induction n generalizing s with
  | zero =>
    obtain ⟨h43, -⟩ := hs.partialSchedule hb
    exact ⟨s, rfl, hs, hPs, rfl, fun _ => hb, fun h => by omega⟩
  | succ n ih =>
    have hr := hq.resetAsserted_eq_false
    obtain ⟨u, hstep, hreset, hidx, hst⟩ := step_busy_advances hs hr hb
    have hu : Inv u := everyStepKeepsTheInvariants s u hs hstep
    have hPu : P u := hP s u hs hr hb hPs hstep
    rw [runSteps_succ hstep]
    by_cases h43 : s.idx.toNat = 43
    · obtain rfl : n = 0 := by omega
      exact ⟨u, rfl, hu, hPu, hidx, fun h => by omega, fun _ => by rw [hst, if_pos h43]⟩
    · have hsum : u.idx.toNat + n = s.idx.toNat + (n + 1) := by omega
      rw [← hsum]
      exact ih hu (by rw [hst, if_neg h43]) (by omega) (hq.next hreset) hPu

/-- Settles O46: the run keeps the invariants, and nothing else is asked of it. -/
theorem expansionAdvancesToCompletion : Obligations.ExpansionAdvancesToCompletion := by
  intro s n hs hb hn hq
  obtain ⟨t, hrun, ht, -, hend⟩ :=
    runSteps_busy (P := fun _ => True) (fun _ _ _ _ _ _ _ => trivial) hs hb hn hq trivial
  exact ⟨t, hrun, ht, hend⟩

/-! ### The expansion that a `START` began (R160) -/

/-- `t` stands in the expansion that began in `s`: the words below `IDX` are those `Expand` makes first from the key,
and of the rest only the one response owed has been given, at completion (R151, R188). -/
structure ExpandsFrom (s t : State) : Prop where
  k : t.k = s.k
  kcnt : t.kcnt = s.kcnt
  err : t.err = s.err
  port : t.port = s.port
  responses : t.responses = if t.st = .done then s.responses ++ [.ok 0#128] else s.responses
  words : expandWords s.k t.idx.toNat = some (t.w.toList.take t.idx.toNat)

/-- At index 0 nothing has been expanded. -/
theorem expandsFrom_self (hb : s.st = .busy) (hi : s.idx = 0#6) : ExpandsFrom s s where
  k := rfl
  kcnt := rfl
  err := rfl
  port := rfl
  responses := by simp [hb]
  words := by simp [hi, expandWords]

theorem toList_set_take_succ {w : Vector Word 44} {n : Nat} (h : n < 44) (v : Word) :
    (w.set n v).toList.take (n + 1) = w.toList.take n ++ [v] := by
  simp [Vector.toList_set, List.take_add_one, List.take_set_of_le, h]

theorem ExpandsFrom.step {u : State} (h : ExpandsFrom s u) (hu : Inv u) (hr : resetAsserted u = false)
    (hb : u.st = .busy) (hstep : step u = .next t) : ExpandsFrom s t := by
  obtain ⟨v, temp, p, hi, hv, hstep'⟩ := step_busy_writes_nextScheduleWord hu hr hb
  obtain rfl := Host.Outcome.next.inj (hstep'.symm.trans hstep)
  have hidx : (u.idx + 1#6).toNat = u.idx.toNat + 1 := nextIndex_toNat (by omega)
  have hgiven : u.responses = s.responses := by simpa [hb] using h.responses
  exact {
    k := h.k
    kcnt := h.kcnt
    err := h.err
    port := h.port
    responses := by by_cases h43 : u.idx = 43#6 <;> simp [hb, hgiven, h43]
    words := by
      rw [afterWrite_idx, hidx, expandWords_succ_eq_some]
      exact ⟨_, v, h.words, h.k ▸ hv, toList_set_take_succ hi v⟩ }

/-- Settles O47: from the state `START` leaves, 44 steps keep it in the expansion that began there, and end it. -/
theorem acceptedStartComputesTheExpansion : Obligations.AcceptedStartComputesTheExpansion := by
  intro s hcount hq
  obtain ⟨t, hrun, ht, hexp, hidx, -, hdone⟩ := runSteps_busy (n := 44)
    (fun _ _ hu hr hb h => h.step hu hr hb) (inv_beginExpansion_clearSchedule s) rfl (by simp) hq
    (expandsFrom_self rfl rfl)
  have hst : t.st = .done := hdone (by simp)
  obtain ⟨hidx, hflags⟩ := ht.fullSchedule hst
  have hwords : expand s.k = some t.w.toList := by
    have hlast : expandWords s.k 44 = some (t.w.toList.take 44) := by simpa [hidx] using hexp.words
    rwa [List.take_of_length_le (by simp)] at hlast
  exact ⟨_, t, if_pos hcount, hrun, hst, hidx, hexp.err, hexp.kcnt, hflags, hwords,
    isExpansion_iff_expand.mpr hwords, hexp.k, hexp.port, by simpa [hst] using hexp.responses⟩

end Sys2Proof.Machine
end

section
/-! SUPPORT. Which operation a step runs on a presented word or a placed one, and what a held word waits for
(spec/44_host_commands.md R180, R188). -/

namespace Sys2Proof.Machine

/-! ### The step of a block that is presented a word (R180) -/

section
variable {s : State} {w : CommandWord} {rest : List CommandWord}
  (hr : resetAsserted s = false) (hb : s.st ≠ .busy) (hp : s.port = w :: rest)
include hr hb hp

theorem step_word_of_decodeCommand_ok {x : Instr} (hd : decodeCommand w = .ok x) :
    step s = exec x { s with port := rest, resetIn := s.resetIn.drop 1 } := by
  simp [step, hr, fetch_word hb hp, decode, hd, consume_word hb hp]

theorem step_word_of_decodeCommand_error {r : DecodeReject} (hd : decodeCommand w = .error r) :
    step s = reject r { s with port := rest, resetIn := s.resetIn.drop 1 } := by
  simp [step, hr, fetch_word hb hp, decode, hd, consume_word hb hp]

end

/-- Settles O6: for each of the two places an operation is fetched from. -/
theorem stepRunsTheDecodedOperation : Obligations.StepRunsTheDecodedOperation :=
  ⟨fun _ _ _ _ hr hb hp hd => step_word_of_decodeCommand_ok hr hb hp hd,
    fun _ _ hr hb hd => step_busy_of_decodeIndex_ok hr hb hd⟩

/-! ### Placed operations (notes/assumptions/10.md) -/

@[simp] theorem tableEncoding_command (w : CommandWord) : tableEncoding 16 w.toNat = some (.command w) := by
  simp [tableEncoding, w.isLt]

@[simp] theorem tableEncoding_index (i : Index) : tableEncoding 8 i.toNat = some (.index i) := by
  simp [tableEncoding, i.isLt]

theorem ok_of_toOption {ε α : Type} {x : Except ε α} {a : α} (h : x.toOption = some a) : x = .ok a := by
  cases x with
  | ok b => exact congrArg Except.ok (Option.some.inj h)
  | error e => cases h

theorem decode_of_decodeTableWord {nbits w : Nat} {e : Encoded} {x : Instr} (he : tableEncoding nbits w = some e)
    (h : decodeTableWord nbits w = some x) : decode e = .ok x := by
  apply ok_of_toOption
  simpa only [decodeTableWord, he] using h

theorem withFetchWord_eq_place {nbits w : Nat} {e : Encoded} (he : tableEncoding nbits w = some e) (s : State) :
    s.withFetchWord nbits w = place e s := by
  simp only [State.withFetchWord, he]

/-- Settles O15: placing puts the word at the head of the port, or the index in the counter, and the sample of reset it
adds is the one the step takes. -/
theorem placedOperationIsRunNext : Obligations.PlacedOperationIsRunNext := by
  refine ⟨fun s w x h => ?_, fun s i x h => ?_⟩
  · have hd : decodeCommand w = .ok x := decode_of_decodeTableWord (tableEncoding_command w) h
    have hb : (placeCommand w s).st ≠ .busy := by
      rw [placeCommand_st]
      split
      · decide
      · assumption
    rw [withFetchWord_eq_place (tableEncoding_command w)]
    exact step_word_of_decodeCommand_ok (s := placeCommand w s) rfl hb rfl hd
  · have hd : decodeIndex i = .ok x := decode_of_decodeTableWord (tableEncoding_index i) h
    rw [withFetchWord_eq_place (tableEncoding_index i)]
    exact step_busy_of_decodeIndex_ok (s := placeIndex i s) rfl rfl hd

/-! ### The hold while `BUSY` (R188) -/

/-- Settles O12: the step is a write of the sequencer, and its common tail gives the response at 43. -/
theorem hostIsHeldWhileBusy : Obligations.HostIsHeldWhileBusy := by
  intro s t hr hb h
  obtain ⟨v, temp, p, hi, rfl⟩ := busyStep_next hr hb h
  exact ⟨rfl, fun h43 => by simp [h43, hb], fun h43 => by simp [h43]⟩

/-- Settles O14: a consumed word is answered in its step, but for an accepted `START`, whose response is owed until the
step at 43 gives it. -/
theorem everyConsumedWordGetsOneResponse : Obligations.EveryConsumedWordGetsOneResponse := by
  intro s t hr h
  cases stepsTo_of_step h with
  | reset hr' => simp [hr] at hr'
  | sequencer _ hb v temp p hi => by_cases h43 : s.idx = 43#6 <;> simp [State.owed, hb, h43]; omega
  | wait _ hb hp => simp [State.owed, hb, hp]
  | push _ hb b rest hp => simp [State.owed, hb, hp]; omega
  | start _ hb rest hp hc => simp [State.owed, hb, hp]; omega
  | raise _ hb rest hp hc => simp [State.owed, hb, hp]; omega
  | answer _ hb w rest hp => simp [State.owed, hb, hp]; omega

end Sys2Proof.Machine
end

section
/-! SUPPORT. What each host command answers (spec/44_host_commands.md R181 to R186), and the words that are refused
(R187; spec/30_encoding.md R85, R86). -/

namespace Sys2Proof.Machine

variable {s : State}

/-! ### The read commands after their two checks -/

theorem exec_rdw_outOfRange {i : BitVec 8} (hi : 43 < i.toNat) (s : State) :
    exec (.rdw i) s = .next (refuse .indexOutOfRange s) := if_pos hi

theorem exec_rdw_notDone {i : BitVec 8} (hi : i.toNat ≤ 43) (hd : s.st ≠ .done) :
    exec (.rdw i) s = .next (refuse .notDone s) :=
  (if_neg (Nat.not_lt.mpr hi)).trans (if_pos hd)

theorem exec_rdw_done {i : BitVec 8} (hi : i.toNat ≤ 43) (hd : s.st = .done) {v : Word}
    (hv : readSchedule i.toNat s = .ok v) : exec (.rdw i) s = .next (respond (.ok (wordData v)) s) := by
  simp [exec, execRdw, Nat.not_lt.mpr hi, hd, hv]

theorem exec_rdrk_outOfRange {r : BitVec 8} (hi : 10 < r.toNat) (s : State) :
    exec (.rdrk r) s = .next (refuse .indexOutOfRange s) := if_pos hi

theorem exec_rdrk_notDone {r : BitVec 8} (hi : r.toNat ≤ 10) (hd : s.st ≠ .done) :
    exec (.rdrk r) s = .next (refuse .notDone s) :=
  (if_neg (Nat.not_lt.mpr hi)).trans (if_pos hd)

theorem exec_rdrk_done {r : BitVec 8} (hi : r.toNat ≤ 10) (hd : s.st = .done) {d : BitVec 128}
    (hv : readRoundKey r.toNat s = .ok d) : exec (.rdrk r) s = .next (respond (.ok d) s) := by
  simp [exec, execRdrk, Nat.not_lt.mpr hi, hd, hv]

/-- Settles O25: the word is the low half of the append that packs it. -/
theorem rdwAnswersTheWord : Obligations.RdwAnswersTheWord := by
  refine fun s i => ⟨fun hi => exec_rdw_outOfRange hi s, fun hi hd => exec_rdw_notDone hi hd, fun n hn hd hw => ?_⟩
  have hread : readSchedule i.toNat s = .ok s.w[n] := by
    rw [← hn]
    exact readSchedule_written n.isLt hw
  exact ⟨wordData s.w[n], exec_rdw_done (by omega) hd hread, BitVec.extractLsb'_append_eq_right,
    BitVec.extractLsb'_append_eq_left⟩

/-- Settles O26: word `m` of the packed round key is word `4r + m` of the schedule. -/
theorem rdrkAnswersTheRoundKey : Obligations.RdrkAnswersTheRoundKey := by
  refine fun s r => ⟨fun hr => exec_rdrk_outOfRange hr s, fun hr hd => exec_rdrk_notDone hr hd,
    fun n hn hd hw => ?_⟩
  have hread := readRoundKey_written (s := s) n.val (by omega) fun m hm => hw ⟨m, hm⟩
  exact ⟨_, exec_rdrk_done (by omega) hd (hn ▸ hread), fun m =>
    (roundKeyData_word _ _ _ _ m).trans (roundKeyWords_getElem s.w n m)⟩

/-! ### The status register (R27) -/

theorem statusData_st (s : State) : (statusData s).extractLsb' 0 2 = s.st.code :=
  (BitVec.extractLsb'_append_eq_of_add_le (w := 16) (by decide)).trans BitVec.extractLsb'_append_eq_right

theorem statusData_err (s : State) : (statusData s).extractLsb' 2 2 = s.err.code :=
  (BitVec.extractLsb'_append_eq_of_add_le (w := 16) (by decide)).trans <|
    (BitVec.extractLsb'_append_eq_of_le (w := 2) (by decide)).trans BitVec.extractLsb'_append_eq_right

theorem statusData_kcnt (s : State) : (statusData s).extractLsb' 4 5 = s.kcnt :=
  (BitVec.extractLsb'_append_eq_of_add_le (w := 16) (by decide)).trans <|
    (BitVec.extractLsb'_append_eq_of_le (w := 2) (by decide)).trans <|
      (BitVec.extractLsb'_append_eq_of_le (w := 2) (by decide)).trans BitVec.extractLsb'_append_eq_right

theorem statusData_upper (s : State) : (statusData s).extractLsb' 9 119 = 0#119 := by
  have hword : (statusData s).extractLsb' 9 7 = 0#7 :=
    (BitVec.extractLsb'_append_eq_of_add_le (w := 16) (by decide)).trans <|
      (BitVec.extractLsb'_append_eq_of_le (w := 2) (by decide)).trans <|
        (BitVec.extractLsb'_append_eq_of_le (w := 2) (by decide)).trans BitVec.extractLsb'_append_eq_left
  have habove : (statusData s).extractLsb' 16 112 = 0#112 := BitVec.extractLsb'_append_eq_left
  calc (statusData s).extractLsb' 9 119
      _ = (statusData s).extractLsb' 16 112 ++ (statusData s).extractLsb' 9 7 :=
        (BitVec.extractLsb'_append_extractLsb'_eq_extractLsb' (by decide : 16 = 9 + 7)).symm
      _ = 0#112 ++ 0#7 := by rw [habove, hword]
      _ = 0#119 := rfl

/-- Settles O28: the fields of the status word, whatever the state; the hold is that of every word. -/
theorem rdstAnswersTheStatus : Obligations.RdstAnswersTheStatus := by
  refine ⟨fun s => ⟨statusData s, rfl, ?_, ?_, statusData_kcnt s, statusData_upper s⟩, fun s t rest hr hb _ h => ?_⟩
  · rw [statusData_st]
    cases s.st <;> rfl
  · rw [statusData_err]
    cases s.err <;> rfl
  · exact (hostIsHeldWhileBusy s t hr hb h).1

/-! ### `KPUSH` and the accepted `START` -/

/-- Settles O21: every push writes and counts the same way; `KCNT` is the index of no byte once it is 16 or more. -/
theorem kpushStoresTheByteAndCounts : Obligations.KpushStoresTheByteAndCounts := by
  refine ⟨fun b s => ⟨_, rfl, pushKeyByte_k_getElem b s, nextKcnt_toNat _, rfl, rfl, rfl, rfl, rfl, rfl⟩,
    fun b s rest hr hb hp => step_word_of_decodeCommand_ok hr hb hp (decodeCommand_kpushWord b),
    fun b s t rest hr hb hp h => ?_⟩
  obtain ⟨v, temp, p, hi, rfl⟩ := busyStep_next hr hb h
  exact ⟨rfl, rfl, rfl⟩

/-- Settles O22: the schedule is cleared, then the expansion begins. -/
theorem startWithSixteenBytesBegins : Obligations.StartWithSixteenBytesBegins :=
  fun _ hcount => ⟨_, if_pos hcount, by simp, rfl, rfl, rfl, rfl, rfl, rfl⟩

/-! ### Refused words: what the decoder makes of them, in the order of R86 -/

section
variable {w : CommandWord}

theorem legalOpcode_iff {op : BitVec 4} : legalOpcode op = true ↔ 1 ≤ op.toNat ∧ op.toNat ≤ 5 := by
  simp [legalOpcode]

theorem decodeCommand_illegalOpcode (h : (opField w).toNat = 0 ∨ 6 ≤ (opField w).toNat) :
    decodeCommand w = .error .reservedOpcode :=
  if_pos (by rw [← Bool.not_eq_true, legalOpcode_iff]; omega)

theorem decodeCommand_nonZeroRsv (h : 1 ≤ (opField w).toNat ∧ (opField w).toNat ≤ 5) (hrsv : rsvField w ≠ 0#4) :
    decodeCommand w = .error .nonZeroReserved := by
  simp [decodeCommand, legalOpcode_iff.mpr h, hrsv]

theorem decodeCommand_zeroRsv {op : BitVec 4} (hop : opField w = op) (h : legalOpcode op = true)
    (hrsv : rsvField w = 0#4) : decodeCommand w = decodeOpcode op (argField w) := by
  rw [← decodeCommand_commandWord _ h, ← hop, commandWord_fields w hrsv]

end

theorem withoutArgument_nonZero {arg : BitVec 8} (h : arg ≠ 0#8) (x : Instr) :
    withoutArgument arg x = .error .nonZeroReserved := if_neg h

/-- Settles O13: the first three cases are the decoder's, the other four those of the two read commands. -/
theorem refusedWordsAreAnsweredAndChangeNothing : Obligations.RefusedWordsAreAnsweredAndChangeNothing := by
  intro s w rest hr hb hp refusedWith op rsv arg
  have hrsv (h : rsv = 0) : rsvField w = 0#4 := BitVec.eq_of_toNat_eq h
  have rejected {r : DecodeReject} (hd : decodeCommand w = .error r) := step_word_of_decodeCommand_error hr hb hp hd
  have rdw (hop : op = 3) (h : rsv = 0) := step_word_of_decodeCommand_ok hr hb hp
    (decodeCommand_zeroRsv (op := 0x3#4) (BitVec.eq_of_toNat_eq hop) rfl (hrsv h))
  have rdrk (hop : op = 4) (h : rsv = 0) := step_word_of_decodeCommand_ok hr hb hp
    (decodeCommand_zeroRsv (op := 0x4#4) (BitVec.eq_of_toNat_eq hop) rfl (hrsv h))
  refine ⟨fun hop => ?_, fun h1 h5 h => ?_, fun hop h harg => ?_, fun hop h harg => ?_, fun hop h harg => ?_,
    fun hop h harg hd => ?_, fun hop h harg hd => ?_⟩
  · exact rejected (decodeCommand_illegalOpcode hop)
  · exact rejected (decodeCommand_nonZeroRsv ⟨h1, h5⟩ fun e => h (congrArg BitVec.toNat e))
  · have harg : argField w ≠ 0#8 := fun e => harg (congrArg BitVec.toNat e)
    rcases hop with hop | hop
    · exact rejected ((decodeCommand_zeroRsv (op := 0x2#4) (BitVec.eq_of_toNat_eq hop) rfl (hrsv h)).trans
        (withoutArgument_nonZero harg _))
    · exact rejected ((decodeCommand_zeroRsv (op := 0x5#4) (BitVec.eq_of_toNat_eq hop) rfl (hrsv h)).trans
        (withoutArgument_nonZero harg _))
  · exact (rdw hop h).trans (exec_rdw_outOfRange harg _)
  · exact (rdrk hop h).trans (exec_rdrk_outOfRange harg _)
  · exact (rdw hop h).trans (exec_rdw_notDone harg hd)
  · exact (rdrk hop h).trans (exec_rdrk_notDone harg hd)

end Sys2Proof.Machine
end

section
/-! SUPPORT. The scripts of `expand(key)` as runs (spec/44_host_commands.md R189): the key is pushed byte by byte, then
`START` is processed. -/

namespace Sys2Proof.Machine

variable {s t u : State}

/-! ### Runs in parts -/

theorem runSteps_add {m : Nat} (h : runSteps m s = .next t) (n : Nat) : runSteps (m + n) s = runSteps n t := by
  induction m generalizing s with
  | zero =>
    cases h
    rw [Nat.zero_add]
  | succ m ih =>
    cases hstep : step s with
    | next u =>
      rw [runSteps_succ hstep] at h
      rw [Nat.succ_add, runSteps_succ hstep, ih h]
    | fault f => simp [runSteps, Host.Core.run, core, hstep] at h
    | refused r => simp [runSteps, Host.Core.run, core, hstep] at h

theorem runSteps_snoc {n : Nat} (h : runSteps n s = .next t) (hstep : step t = .next u) :
    runSteps (n + 1) s = .next u :=
  (runSteps_add h 1).trans (runSteps_succ hstep 0)

theorem QuietFor.mono {m n : Nat} (h : QuietFor n s) (hmn : m ≤ n) : QuietFor m s :=
  fun b hb => h b (List.take_subset_take_left s.resetIn hmn hb)

theorem QuietFor.after {m n : Nat} (h : QuietFor (m + n) s) (ht : t.resetIn = s.resetIn.drop m) : QuietFor n t := by
  intro b hb
  rw [ht, List.take_drop] at hb
  exact h b (List.mem_of_mem_drop hb)

/-! ### Pushing a key (R181) -/

/-- `t` holds the bytes pushed since `s`, where none had been: each was answered, and the first sixteen stand in `K`. -/
structure PushedFrom (bytes : List Byte) (s t : State) : Prop where
  st : t.st = s.st
  kcnt : t.kcnt.toNat = min bytes.length 17
  k : ∀ (n : Fin 16) (h : n.val < bytes.length), t.k[n] = bytes[n.val]
  responses : t.responses = s.responses ++ List.replicate bytes.length (.ok 0#128)

theorem pushedFrom_nil (h : s.kcnt = 0#5) : PushedFrom [] s s where
  st := rfl
  kcnt := by simp [h]
  k n hn := absurd hn (Nat.not_lt_zero _)
  responses := by simp

theorem PushedFrom.push {bytes : List Byte} (h : PushedFrom bytes s t) (b : Byte) :
    PushedFrom (bytes ++ [b]) s (respond (.ok 0#128) (pushKeyByte b t)) where
  st := h.st
  kcnt := by
    rw [respond_kcnt, pushKeyByte_kcnt, nextKcnt_toNat, h.kcnt, List.length_append, List.length_singleton]
    omega
  k n hn := by
    rw [respond_k, pushKeyByte_k_getElem, h.kcnt]
    by_cases hlt : n.val < bytes.length
    · rw [if_neg (by omega), h.k n hlt, List.getElem_append_left hlt]
    · have hlast : n.val = bytes.length := by
        rw [List.length_append, List.length_singleton] at hn
        omega
      rw [if_pos (by omega)]
      simp [hlast]
  responses := by simp [h.responses, List.replicate_succ']

/-- The steps that process the words of a key push its bytes. -/
theorem runSteps_keyScript {bytes : List Byte} (hb : s.st ≠ .busy) (hcount : s.kcnt = 0#5) {rest : List CommandWord}
    (hp : s.port = keyScript bytes ++ rest) (hq : QuietFor bytes.length s) :
    ∃ t, runSteps bytes.length s = .next t ∧ PushedFrom bytes s t ∧ t.port = rest ∧
      t.resetIn = s.resetIn.drop bytes.length := by
  induction bytes using List.reverseRecOn generalizing rest with
  | nil => exact ⟨s, rfl, pushedFrom_nil hcount, hp, rfl⟩
  | append_singleton bytes b ih =>
    rw [List.length_append, List.length_singleton] at hq ⊢
    obtain ⟨t, hrun, hpushed, hport, hreset⟩ := ih (rest := kpushWord b :: rest)
      (by simpa [keyScript] using hp) (hq.mono (Nat.le_succ _))
    have hr : resetAsserted t = false := (hq.after hreset).resetAsserted_eq_false
    have hstep := step_word_of_decodeCommand_ok hr (hpushed.st ▸ hb) hport (decodeCommand_kpushWord b)
    have hconsumed : PushedFrom bytes s { t with port := rest, resetIn := t.resetIn.drop 1 } := { hpushed with }
    exact ⟨_, runSteps_snoc hrun hstep, hconsumed.push b, rfl, by simp [hreset]⟩

/-! ### `START` after the key (R183) -/

/-- The step after the key runs `START` on the bytes pushed. -/
theorem runSteps_expandScript {bytes : List Byte} (hb : s.st ≠ .busy) (hcount : s.kcnt = 0#5)
    {rest : List CommandWord} (hp : s.port = expandScript bytes ++ rest) (hq : QuietFor (bytes.length + 1) s) :
    ∃ u, PushedFrom bytes s u ∧ u.port = rest ∧ u.resetIn = s.resetIn.drop (bytes.length + 1) ∧
      ∀ t, exec .start u = .next t → runSteps (bytes.length + 1) s = .next t := by
  obtain ⟨t, hrun, hpushed, hport, hreset⟩ := runSteps_keyScript hb hcount (rest := startWord :: rest)
    (by simpa [expandScript] using hp) (hq.mono (Nat.le_succ _))
  have hr : resetAsserted t = false := (hq.after hreset).resetAsserted_eq_false
  have hstep := step_word_of_decodeCommand_ok hr (hpushed.st ▸ hb) hport decodeCommand_startWord
  exact ⟨{ t with port := rest, resetIn := t.resetIn.drop 1 }, { hpushed with }, rfl, by simp [hreset],
    fun v hv => runSteps_snoc hrun (hstep.trans hv)⟩

/-- `KCNT` is 16 after the key exactly when it had 16 bytes (R21). -/
theorem PushedFrom.kcnt_eq_sixteen_iff {bytes : List Byte} (h : PushedFrom bytes s t) :
    t.kcnt = 16#5 ↔ bytes.length = 16 := by
  have h16 : t.kcnt = 16#5 ↔ t.kcnt.toNat = 16 := BitVec.toNat_inj.symm
  rw [h16, h.kcnt]
  omega

/-- Sixteen bytes pushed are the whole key. -/
theorem PushedFrom.k_eq {key : Vector Byte 16} (h : PushedFrom key.toList s t) : t.k = key := by
  apply Vector.ext
  intro n hn
  exact (h.k ⟨n, hn⟩ (by simpa using hn)).trans (Vector.getElem_toList _)

/-- Settles O52: the count is not 16, and `START` raises. -/
theorem expandScriptOfAnotherLength : Obligations.ExpandScriptOfAnotherLength := by
  intro bytes s rest hlen hb hcount hp hq
  obtain ⟨u, hpushed, hport, -, hrun⟩ := runSteps_expandScript hb hcount hp hq
  have hstart : exec .start u = .next (raiseInvalidKeyLength (clearSchedule u)) :=
    if_neg (mt hpushed.kcnt_eq_sixteen_iff.mp hlen)
  exact ⟨_, hrun _ hstart, rfl, rfl, by simp, hport, by simp [hpushed.responses]⟩

/-- Settles O51: after the 17 words the expansion runs as after any accepted `START`. -/
theorem expandScriptOfSixteenBytes : Obligations.ExpandScriptOfSixteenBytes := by
  intro key s rest hb hcount hp hq
  have hlen : key.toList.length = 16 := Vector.length_toList
  obtain ⟨u, hpushed, hport, hreset, hscript⟩ := runSteps_expandScript hb hcount hp (hq.mono (by omega))
  rw [hlen] at hreset hscript
  obtain ⟨v, t, hstart, hrun, hst, -, herr, -, hflags, -, hexp, -, htport, hgiven⟩ :=
    acceptedStartComputesTheExpansion u (hpushed.kcnt_eq_sixteen_iff.mpr hlen) (hq.after (m := 17) hreset)
  refine ⟨t, (runSteps_add (hscript v hstart) 44).trans hrun, hst, herr, hflags, hpushed.k_eq ▸ hexp,
    htport.trans hport, ?_⟩
  rw [hgiven, hpushed.responses, hlen, List.append_assoc, ← List.replicate_succ']

end Sys2Proof.Machine
end

section
/-! SUPPORT. What cannot fail (spec/60_exceptions.md): the wait for a word (R226), the one exception (R212), and that
under the invariants no step stops (R211). -/

namespace Sys2Proof.Machine

variable {s : State}

/-! ### The wait and the one exception -/

/-- Settles O9: nothing is fetched, and there is no word to consume. -/
theorem waitingKeepsAllState : Obligations.WaitingKeepsAllState := by
  intro s hr hb hp
  have hconsume : consume s = { s with resetIn := s.resetIn.drop 1 } := by simp [consume, hp]
  simp [step, hr, fetch_empty hb hp, hconsume]

/-- Settles O23: the schedule is cleared, then the length is found wrong. -/
theorem startWithAnotherLengthRaises : Obligations.StartWithAnotherLengthRaises :=
  fun _ hcount => ⟨_, if_neg hcount, by simp, rfl, rfl, rfl, rfl, rfl, rfl⟩

/-! ### No step stops under the invariants -/

theorem step_reset (hr : resetAsserted s = true) : step s = .next (applyReset s) := if_pos hr

/-- `RDW` reads only in `DONE`, where every word is written (R45 (c)). -/
theorem exec_rdw_answers (h : Inv s) (i : BitVec 8) : ∃ t, exec (.rdw i) s = .next t := by
  by_cases hi : i.toNat ≤ 43
  · by_cases hd : s.st = .done
    · obtain ⟨-, hflags⟩ := h.fullSchedule hd
      have hlt : i.toNat < 44 := Nat.lt_succ_of_le hi
      exact ⟨_, exec_rdw_done hi hd (readSchedule_written hlt (hflags ⟨i.toNat, hlt⟩))⟩
    · exact ⟨_, exec_rdw_notDone hi hd⟩
  · exact ⟨_, exec_rdw_outOfRange (Nat.not_le.mp hi) s⟩

/-- `RDRK` reads only in `DONE`, and words `4r`..`4r+3` with `r` at most 10 are in the schedule (R45 (c)). -/
theorem exec_rdrk_answers (h : Inv s) (r : BitVec 8) : ∃ t, exec (.rdrk r) s = .next t := by
  by_cases hi : r.toNat ≤ 10
  · by_cases hd : s.st = .done
    · obtain ⟨-, hflags⟩ := h.fullSchedule hd
      have hread := readRoundKey_written (s := s) r.toNat (by omega)
        fun m hm => hflags ⟨4 * r.toNat + m, by omega⟩
      exact ⟨_, exec_rdrk_done hi hd hread⟩
    · exact ⟨_, exec_rdrk_notDone hi hd⟩
  · exact ⟨_, exec_rdrk_outOfRange (Nat.not_le.mp hi) s⟩

/-- `START` answers whatever the count: it begins an expansion or enters the error state (R183, R212). -/
theorem exec_start_answers (s : State) : ∃ t, exec .start s = .next t := by
  by_cases hcount : s.kcnt = 16#5
  · exact ⟨_, if_pos hcount⟩
  · exact ⟨_, if_neg hcount⟩

theorem exec_hostCommand_answers (h : Inv s) {w : CommandWord} {x : Instr} (hd : decodeCommand w = .ok x) :
    ∃ t, exec x s = .next t := by
  obtain ⟨-, hx⟩ := decodeCommand_ok hd
  rcases hx with ⟨-, rfl⟩ | ⟨-, -, rfl⟩ | ⟨-, rfl⟩ | ⟨-, rfl⟩ | ⟨-, -, rfl⟩
  · exact ⟨_, rfl⟩
  · exact exec_start_answers s
  · exact exec_rdw_answers h _
  · exact exec_rdrk_answers h _
  · exact ⟨_, rfl⟩

/-- A command word that selects no operation is answered, never a fault (R187). -/
theorem reject_command_answers {w : CommandWord} {r : DecodeReject} (hd : decodeCommand w = .error r) (s : State) :
    ∃ t, reject r s = .next t := by
  rcases decodeCommand_rejects hd with rfl | rfl <;> exact ⟨_, rfl⟩

/-- A presented word is answered, whether or not it is one of the five commands (R180). -/
theorem step_word_answers (h : Inv s) (hr : resetAsserted s = false) (hb : s.st ≠ .busy) {w : CommandWord}
    {rest : List CommandWord} (hp : s.port = w :: rest) : ∃ t, step s = .next t := by
  have hconsumed : Inv { s with port := rest, resetIn := s.resetIn.drop 1 } := consume_word hb hp ▸ inv_consume h
  cases hd : decodeCommand w with
  | ok x =>
    rw [step_word_of_decodeCommand_ok hr hb hp hd]
    exact exec_hostCommand_answers hconsumed hd
  | error r =>
    rw [step_word_of_decodeCommand_error hr hb hp hd]
    exact reject_command_answers hd _

/-- Settles O45: for each kind of step, a reset, a sequencer step, a wait, and the processing of a word. -/
theorem noStepStopsUnderTheInvariants : Obligations.NoStepStopsUnderTheInvariants := by
  intro s h
  cases hr : resetAsserted s with
  | true => exact ⟨_, step_reset hr⟩
  | false =>
    by_cases hb : s.st = .busy
    · obtain ⟨t, hstep, -⟩ := step_busy_advances h hr hb
      exact ⟨t, hstep⟩
    · cases hp : s.port with
      | nil => exact ⟨_, waitingKeepsAllState s hr hb hp⟩
      | cons w rest => exact step_word_answers h hr hb hp

end Sys2Proof.Machine
end

section
/-! SUPPORT. Reset (spec/70_reset_and_hazards.md R240, R241). -/

namespace Sys2Proof.Machine

theorem applyReset_flag (s : State) (i : Fin 44) : (applyReset s).wv[i] = false := by simp

/-- Settles O10: a step with reset asserted is the reset event and nothing else. -/
theorem resetGivesTheResetValues : Obligations.ResetGivesTheResetValues :=
  fun s hr => ⟨applyReset s, step_reset hr, rfl, rfl, rfl, rfl, applyReset_flag s, inv_applyReset s⟩

/-- Settles O11: the reset event is the same whether or not an expansion is running. -/
theorem resetDuringAnExpansionDiscardsIt : Obligations.ResetDuringAnExpansionDiscardsIt :=
  fun s hr _ => ⟨applyReset s, step_reset hr, rfl, applyReset_flag s, rfl, rfl⟩

end Sys2Proof.Machine
end

section
/-! SUPPORT. Control is independent of data (spec/70_reset_and_hazards.md R252): every operation of the model takes
states that differ only in data to results that again differ only there. -/

namespace Sys2Proof.Machine

variable {s t : State}

/-! ### Command words that differ at most in a key byte -/

/-- Words of one shape are the same word, or two `KPUSH` words. -/
theorem eq_or_kpush_of_commandShape_eq {v w : CommandWord} (h : commandShape v = commandShape w) :
    v = w ∨ ∃ a b, v = kpushWord a ∧ w = kpushWord b := by
  have isKpush {u : CommandWord} (hu : opField u = 0x1#4 ∧ rsvField u = 0#4) : u = kpushWord (argField u) := by
    rw [kpushWord, ← hu.1, commandWord_fields u hu.2]
  unfold commandShape at h
  split at h <;> split at h
  next hv hw => exact .inr ⟨_, _, isKpush hv, isKpush hw⟩
  next _ hw => exact absurd (by simp [← h]) hw
  next hv _ => exact absurd (by simp [h]) hv
  next => exact .inl h

namespace SameControl

/-! ### The state operations -/

theorem consume (h : SameControl s t) : SameControl (consume s) (consume t) where
  __ := h
  port := by
    rw [consume_port, consume_port, ← h.st]
    split <;> simp [h.port]
  resetIn := by simp [h.resetIn]

theorem respond (h : SameControl s t) {q r : Response} (hqr : q.shape = r.shape) :
    SameControl (respond q s) (respond r t) where
  __ := h
  responses := by simp [h.responses, hqr]

theorem applyReset (h : SameControl s t) : SameControl (applyReset s) (applyReset t) where
  kcnt := rfl
  wv := rfl
  idx := rfl
  st := rfl
  err := rfl
  port := by simp [h.port]
  resetIn := by simp [h.resetIn]
  responses := h.responses

theorem clearSchedule (h : SameControl s t) : SameControl (clearSchedule s) (clearSchedule t) where
  __ := h
  wv := rfl
  idx := rfl

theorem pushKeyByte (h : SameControl s t) (a b : Byte) : SameControl (pushKeyByte a s) (pushKeyByte b t) where
  __ := h
  kcnt := by simp [h.kcnt]

theorem beginExpansion (h : SameControl s t) : SameControl (beginExpansion s) (beginExpansion t) where
  __ := h
  kcnt := rfl
  st := rfl
  err := rfl

theorem raiseInvalidKeyLength (h : SameControl s t) :
    SameControl (raiseInvalidKeyLength s) (raiseInvalidKeyLength t) where
  __ := h
  kcnt := rfl
  wv := rfl
  idx := rfl
  st := rfl
  err := rfl
  responses := by simp [h.responses]

theorem finishStep (h : SameControl s t) : SameControl (finishStep s) (finishStep t) where
  __ := h
  idx := by simp [h.idx]
  st := by simp [h.idx, h.st]
  responses := by
    rw [finishStep_responses, finishStep_responses, ← h.idx]
    split <;> simp [h.responses]

/-! ### The schedule store: whether an access faults is a matter of its index and the flags (R22) -/

/-- A read has a value in both states or the same fault in both; the values may differ. -/
theorem readSchedule (h : SameControl s t) (i : Nat) :
    resultsRelated (fun _ _ => True) (readSchedule i s) (readSchedule i t) := by
  unfold Machine.readSchedule
  split
  next hi =>
    have hflag : s.wv[i] = t.wv[i] := by rw [h.wv]
    rw [← hflag]
    split
    next => trivial
    next => rfl
  next => rfl

theorem readRoundKey (h : SameControl s t) (r : Nat) :
    resultsRelated (fun _ _ => True) (readRoundKey r s) (readRoundKey r t) :=
  resultsRelated_bind (h.readSchedule _) fun _ _ _ =>
  resultsRelated_bind (h.readSchedule _) fun _ _ _ =>
  resultsRelated_bind (h.readSchedule _) fun _ _ _ =>
  resultsRelated_bind (h.readSchedule _) fun _ _ _ => trivial

theorem writeSchedule (h : SameControl s t) (i : Nat) (v w : Word) :
    resultsRelated SameControl (writeSchedule i v s) (writeSchedule i w t) := by
  unfold Machine.writeSchedule
  split
  next => exact { __ := h, wv := by simp [h.wv] }
  next => rfl

/-! ### The stages of a sequencer step (R125): `TEMP` and `P` are data -/

theorem fetchSources (h : SameControl s t) (i : Index) :
    resultsRelated SameControl (fetchSources i s) (fetchSources i t) :=
  resultsRelated_bind (h.readSchedule _) fun _ _ _ =>
  resultsRelated_bind (h.readSchedule _) fun _ _ _ => { h with }

theorem rotateTemp (h : SameControl s t) : SameControl (rotateTemp s) (rotateTemp t) := { h with }

theorem substituteTemp (h : SameControl s t) : SameControl (substituteTemp s) (substituteTemp t) := { h with }

/-- Whether `RCON[j]` exists is a matter of `j` alone (R34). -/
theorem injectRcon (h : SameControl s t) (j : BitVec 4) :
    resultsRelated SameControl (injectRcon j s) (injectRcon j t) := by
  unfold Machine.injectRcon rconXor
  cases rcon j with
  | none => rfl
  | some c => exact { h with }

theorem combineInto (h : SameControl s t) (i : Index) :
    resultsRelated SameControl (combineInto i s) (combineInto i t) :=
  h.writeSchedule _ _ _

/-! ### The meanings -/

theorem execKpush (h : SameControl s t) (a b : Byte) : outcomesRelated SameControl (execKpush a s) (execKpush b t) :=
  (h.pushKeyByte a b).respond rfl

theorem execStart (h : SameControl s t) : outcomesRelated SameControl (execStart s) (execStart t) := by
  unfold Machine.execStart
  rw [← h.kcnt]
  split
  · exact h.clearSchedule.beginExpansion
  · exact h.clearSchedule.raiseInvalidKeyLength

/-- Two reads of one kind are answered with `OK` and some data in both states, or stop with the same fault. -/
theorem answerRead (h : SameControl s t) {α : Type} {x y : Except Fault α}
    (hxy : resultsRelated (fun _ _ => True) x y) (data : α → BitVec 128) :
    outcomesRelated SameControl (outcomeOf do return Machine.respond (.ok (data (← x))) s)
      (outcomeOf do return Machine.respond (.ok (data (← y))) t) :=
  outcomesRelated_outcomeOf (resultsRelated_bind hxy fun _ _ _ => h.respond rfl)

theorem execRdw (h : SameControl s t) (i : BitVec 8) : outcomesRelated SameControl (execRdw i s) (execRdw i t) := by
  unfold Machine.execRdw
  rw [← h.st]
  split
  · exact h.respond rfl
  split
  · exact h.respond rfl
  · exact h.answerRead (h.readSchedule _) wordData

theorem execRdrk (h : SameControl s t) (r : BitVec 8) :
    outcomesRelated SameControl (execRdrk r s) (execRdrk r t) := by
  unfold Machine.execRdrk
  rw [← h.st]
  split
  · exact h.respond rfl
  split
  · exact h.respond rfl
  · exact h.answerRead (h.readRoundKey _) id

theorem execRdst (h : SameControl s t) : outcomesRelated SameControl (execRdst s) (execRdst t) := h.respond rfl

theorem execKsCopy (h : SameControl s t) (k : BitVec 2) :
    outcomesRelated SameControl (execKsCopy k s) (execKsCopy k t) :=
  outcomesRelated_outcomeOf (resultsRelated_bind (h.writeSchedule _ _ _) fun _ _ h => h.finishStep)

theorem execKsG (h : SameControl s t) (j : BitVec 4) : outcomesRelated SameControl (execKsG j s) (execKsG j t) :=
  outcomesRelated_outcomeOf <|
    resultsRelated_bind (h.fetchSources _) fun _ _ h =>
    resultsRelated_bind (h.rotateTemp.substituteTemp.injectRcon j) fun _ _ h =>
    resultsRelated_bind (h.combineInto _) fun _ _ h => h.finishStep

theorem execKsX (h : SameControl s t) (j : BitVec 4) (k : BitVec 2) :
    outcomesRelated SameControl (execKsX j k s) (execKsX j k t) :=
  outcomesRelated_outcomeOf <|
    resultsRelated_bind (h.fetchSources _) fun _ _ h =>
    resultsRelated_bind (h.combineInto _) fun _ _ h => h.finishStep

theorem exec (h : SameControl s t) (x : Instr) : outcomesRelated SameControl (exec x s) (exec x t) := by
  cases x with
  | kpush b => exact h.execKpush b b
  | start => exact h.execStart
  | rdw i => exact h.execRdw i
  | rdrk r => exact h.execRdrk r
  | rdst => exact h.execRdst
  | ksCopy k => exact h.execKsCopy k
  | ksG j => exact h.execKsG j
  | ksX j k => exact h.execKsX j k

theorem reject (h : SameControl s t) (r : DecodeReject) :
    outcomesRelated SameControl (reject r s) (reject r t) := by
  cases r with
  | reservedOpcode => exact h.respond rfl
  | nonZeroReserved => exact h.respond rfl
  | expansionComplete => rfl
  | badIndex => exact congrArg (fun i : Index => Fault.badIndex i.toNat) h.idx

/-! ### One step -/

theorem resetAsserted_eq (h : SameControl s t) : resetAsserted s = resetAsserted t := by
  simp only [resetAsserted, h.resetIn]

/-- What the two blocks fetch differs at most in the key byte of a `KPUSH`. -/
theorem fetch_eq_or_kpush (h : SameControl s t) : fetch s = fetch t ∨
    ∃ a b, fetch s = some (.command (kpushWord a)) ∧ fetch t = some (.command (kpushWord b)) := by
  by_cases hb : s.st = .busy
  · exact .inl (by rw [fetch_busy hb, fetch_busy (h.st ▸ hb), h.idx])
  have hb' : t.st ≠ .busy := h.st ▸ hb
  have hport := h.port
  cases hs : s.port with
  | nil =>
    have ht : t.port = [] := by simpa [hs, eq_comm] using hport
    exact .inl (by rw [fetch_empty hb hs, fetch_empty hb' ht])
  | cons v vs =>
    obtain ⟨w, ws, ht, hshape, -⟩ := List.map_eq_cons_iff.mp (hport.symm.trans (congrArg _ hs))
    rw [fetch_word hb hs, fetch_word hb' ht]
    rcases eq_or_kpush_of_commandShape_eq hshape.symm with rfl | ⟨a, b, rfl, rfl⟩
    · exact .inl rfl
    · exact .inr ⟨a, b, rfl, rfl⟩

end SameControl

/-- Settles O54: the two blocks fetch the same up to a key byte to be pushed, and each meaning keeps the relation. -/
theorem controlIsIndependentOfData : Obligations.ControlIsIndependentOfData := by
  intro s t h
  unfold step
  rw [← h.resetAsserted_eq]
  split
  · exact h.applyReset
  rcases h.fetch_eq_or_kpush with hf | ⟨a, b, hs, ht⟩
  · rw [← hf]
    cases fetch s with
    | none => exact h.consume
    | some e =>
      cases hd : decode e with
      | ok x => simpa only [hd] using h.consume.exec x
      | error r => simpa only [hd] using h.consume.reject r
  · simpa only [hs, ht, decode, decodeCommand_kpushWord, exec] using h.consume.execKpush a b

end Sys2Proof.Machine
end
